-- ==== Sys2Proof/Word.lean ====
section
/-! DEFINITION. The word types of the block: a byte (00_scope.md R12), a transaction word (30_encoding.md R53)
and the CRC register (42_crc_validator.md R83). -/

namespace Sys2Proof

/-- A byte: an unsigned integer 0 to 255 (00_scope.md R12). -/
abbrev Byte := BitVec 8

/-- An input transaction word, 10 bits: `op = t[9:8]`, `data = t[7:0]` (30_encoding.md R53). -/
abbrev TWord := BitVec 10

/-- The 32-bit register of the CRC-32 function (42_crc_validator.md R83). -/
abbrev Crc := BitVec 32

end Sys2Proof
end

