-- ==== Sys2Proof/Config.lean ====
section
/-! DEFINITION. What the spec leaves open, each as a constant without a body, so that no proof can see its value:
the capacity MAXRAWLEN of the instance that State.reset stands for, the unspecified values of `len` and `buf`, and
the return code of the out-of-scope downstream. -/

namespace Sys2Proof.Config

/-- How many bytes beyond the 32 of the smallest legal buffer the reset instance has: MAXRAWLEN is OPEN, a natural
number that is at least 32 (00_scope.md R7, D6, U5). DESIGN CHOICE, safe: log entry 1. -/
opaque extraCapacity : Nat

/-- The value of `len` that the RESET transaction leaves: `len` is unspecified (10_state.md R29, U1). The argument
numbers the draw. DESIGN CHOICE, safe: log entry 5. -/
opaque freeLen : Nat → Nat

/-- The value of a byte of `buf` that nothing has written since reset: every `buf[i]` is unspecified
(10_state.md R29, U2). The arguments are the number of the draw and the index. DESIGN CHOICE, safe: log entry 4. -/
opaque freeByte : Nat → Nat → Byte

/-- The downstream's return codes for an accepted frame: -1, 0, 1, 2, 3 or 9 (42_crc_validator.md R90). -/
inductive DownstreamCode where
  | minusOne
  | zero
  | one
  | two
  | three
  | nine
  deriving DecidableEq, Repr, Inhabited

/-- The code the downstream returns for the `k`-th accepted frame of a composite model; the code is the downstream's
and is drawn (42_crc_validator.md R90, U11 to U13). DESIGN CHOICE, safe: log entry 15. -/
opaque downstreamCode : Nat → DownstreamCode

end Sys2Proof.Config
end

