-- ==== Sys2Proof/Machine/Params.lean ====
section
/-! DEFINITION. The implementation parameters and fixed constants of the block (00_scope.md R7 to R10). -/

namespace Sys2Proof.Machine

/-- MAXRAWLEN of the instance State.reset stands for: OPEN, at least 32 (00_scope.md R7, D6; log entry 1). Every other
definition reads the capacity from the size of the buffer it is given, never from here. -/
def maxRawLen : Nat := Config.extraCapacity + 32

/-- CRC_INIT, the value of the CRC register before the first byte (00_scope.md R9, D4, G1; log entry 2). -/
def crcInit : Crc := 0x00000000#32

/-- CRC_XOROUT, XORed into the CRC register after the last byte (00_scope.md R10, D5, G2; log entry 2). -/
def crcXorOut : Crc := 0x00000000#32

/-- POLY, the CRC polynomial in reflected form (00_scope.md R8). -/
def crcPoly : Crc := 0xEDB88320#32

/-- HLEN, the header length, sync included (00_scope.md R8). -/
def headerLen : Nat := 28

/-- The trailer length (00_scope.md R8). -/
def trailerLen : Nat := 4

/-- SYNC, first byte (00_scope.md R8, 30_encoding.md R49). -/
def sync0 : Byte := 0xAA#8

/-- SYNC, second byte. -/
def sync1 : Byte := 0x44#8

/-- SYNC, third byte. -/
def sync2 : Byte := 0x12#8

/-- SYNC as a byte sequence, in stream order (30_encoding.md R49). -/
def syncBytes : List Byte := [sync0, sync1, sync2]

end Sys2Proof.Machine
end

