-- ==== Sys2Proof/Machine/State.lean ====
section
/-! DEFINITION. The state of the block as plain data (10_state.md R18 to R23), its outputs (30_encoding.md R56 to R58),
the reasons a step can stop, and the state right after power-on reset (10_state.md R29, 70_reset_and_hazards.md R122). -/

namespace Sys2Proof.Machine

/-- The status output, two bits, named as 30_encoding.md R56 names its values. -/
inductive Status where
  /-- "no complete message yet" -/
  | none
  /-- a complete frame passed every check -/
  | accept
  /-- frame error -/
  | err
  /-- end of file -/
  | eof
  deriving DecidableEq, Repr

/-- The cause output, two bits, named as 30_encoding.md R57 names its values. -/
inductive Cause where
  | none
  /-- declared length too large (41_framer.md R74) -/
  | len
  /-- trailer mismatch (42_crc_validator.md R86) -/
  | crc
  /-- zero GPS week (42_crc_validator.md R88) -/
  | week
  deriving DecidableEq, Repr

/-- The frame bundle of an accepted frame, with the widths of 30_encoding.md R58. -/
structure Bundle where
  frameSize : BitVec 17
  bodyLen   : BitVec 16
  msgId     : BitVec 16
  msgType   : BitVec 2
  week      : BitVec 16
  towMs     : BitVec 32
  crc       : BitVec 32
  bytes     : List Byte
  deriving DecidableEq, Repr

/-- The output of one step: status, cause and, on acceptance, the frame bundle (10_state.md R26). -/
structure Output where
  status : Status
  cause  : Cause
  bundle : Option Bundle
  deriving DecidableEq, Repr

/-- The sync window `win[0..2]`, `w2` newest (10_state.md R22, 40_sync.md R64). -/
structure Window where
  w0 : Byte
  w1 : Byte
  w2 : Byte
  deriving DecidableEq, Repr

/-- The reassembly buffer `buf[0..MAXRAWLEN-1]` (10_state.md R23): its size MAXRAWLEN, fixed when the block is built
(00_scope.md R7, 70_reset_and_hazards.md R123), and the bytes written since reset as index and byte pairs. -/
structure Buffer where
  size  : Nat
  cells : List Host.Cell
  deriving DecidableEq, Repr

/-- The state vector (nbyte, len, win, buf) of 10_state.md R18, and three fields of the model's own: `draws` numbers the
free values drawn (log entry 5), `input` holds the words the host has still to present (log entry 6), `out` is the output
of the step just taken, which no rule reads (10_state.md R26, log entry 7). -/
structure State where
  nbyte : Nat
  len   : Nat
  win   : Window
  buf   : Buffer
  draws : Nat
  input : List TWord
  out   : Option Output
  deriving DecidableEq, Repr

/-- Why the machine stops with a fault. The block itself has no trap (60_exceptions.md R107) and never halts in a state
its invariants admit (R113). -/
inductive Fault where
  /-- Raised by BYTE in ACCUMULATE when the index it stores to is not in the buffer (20_memory.md R32); only in states
  that break 10_state.md R28 (4), which no run reaches. Safe: log entry 9. -/
  | bufferIndex (i : Nat)
  deriving DecidableEq, Repr

/-- Why the machine refuses a word. -/
inductive Refusal where
  /-- An instruction without a meaning; no arm of exec answers it. Safe. -/
  | notModelled (mnemonic : String)
  /-- A reserved transaction word, for which the model has no step (30_encoding.md R55, D15); raised by step. Safe: log
  entry 8. -/
  | reservedWord (w : TWord)
  deriving DecidableEq, Repr

/-- The state right after power-on reset (10_state.md R29, 70_reset_and_hazards.md R122): HUNT, an empty window, no output.
The spec gives `len` and `buf` no value: log entries 3 and 4. -/
def State.reset : State where
  nbyte := 0
  len   := 0
  win   := ⟨0x00#8, 0x00#8, 0x00#8⟩
  buf   := ⟨maxRawLen, []⟩
  draws := 0
  input := []
  out   := Option.none

end Sys2Proof.Machine
end

