-- ==== Sys2Proof/Machine/Ops.lean ====
section
/-! DEFINITION. The named operations over the buffer and the registers, and the one shared operation that raises a frame
error (20_memory.md R32 to R39, 00_scope.md R13, R14, 60_exceptions.md R110). -/

namespace Sys2Proof.Machine

/-! ## The buffer's cells: index and byte pairs, indices strictly rising -/

/-- The byte written at index `i` since reset, if one was. -/
def Memory.lookup : List Host.Cell → Nat → Option Byte
  | [], _ => none
  | (a, v) :: m, i => if i = a then some v else Memory.lookup m i

/-- Write the byte `v` at index `i`, keeping the indices strictly rising (20_memory.md R34: writes are one byte wide). -/
def Memory.store : List Host.Cell → Nat → Byte → List Host.Cell
  | [], i, v => [(i, v)]
  | (a, w) :: m, i, v =>
    if i < a then (i, v) :: (a, w) :: m
    else if i = a then (i, v) :: m
    else (a, w) :: Memory.store m i v

/-- The canonical form of the cells of a buffer of `size` bytes: strictly rising indices, all of them below `size`
(20_memory.md R32). An unlisted byte has no known value, so no listed byte repeats it (log entry 4). -/
abbrev Memory.wf (size : Nat) (m : List Host.Cell) : Prop :=
  m.Pairwise (fun c d => c.1 < d.1) ∧ ∀ c ∈ m, c.1 < size

/-- What a byte that nothing has written since reset reads as: an unspecified value (10_state.md R29, U2; log entry 4). -/
def unlistedByte (draw i : Nat) : Byte := Config.freeByte draw i

/-- `buf[i]` as a rule reads it (00_scope.md R13). Reads change nothing (20_memory.md R35). -/
def State.readByte (s : State) (i : Nat) : Byte :=
  (Memory.lookup s.buf.cells i).getD (unlistedByte s.draws i)

/-- `buf[i] <- v` (00_scope.md R13). -/
def State.writeByte (s : State) (i : Nat) (v : Byte) : State :=
  { s with buf := { s.buf with cells := Memory.store s.buf.cells i v } }

/-- `buf[0 .. n-1]` as a byte sequence. -/
def State.bytes (s : State) (n : Nat) : List Byte :=
  (List.range n).map s.readByte

/-- `MemRead(a, n)`: the sum over k in 0..n-1 of buf[a+k] * 2^(8k) (20_memory.md R38, R39). -/
def State.memRead (s : State) (a : Nat) : Nat → Nat
  | 0 => 0
  | n + 1 => s.memRead a n + (s.readByte (a + n)).toNat * 2 ^ (8 * n)

/-! ## Registers and outputs -/

/-- `nbyte <- n`. -/
def State.setNbyte (s : State) (n : Nat) : State := { s with nbyte := n }

/-- `len <- n`. -/
def State.setLen (s : State) (n : Nat) : State := { s with len := n }

/-- `win <- w`. -/
def State.setWin (s : State) (w : Window) : State := { s with win := w }

/-- `out(...)`: the output of the step (00_scope.md R14). -/
def State.emit (s : State) (o : Output) : State := { s with out := some o }

/-- Take the next word the host presents (log entry 6). -/
def State.takeInput (s : State) : State := { s with input := s.input.tail }

/-- `len` and every `buf[i]` become unspecified: a new draw of free values, and no byte listed (10_state.md R29,
43_control.md R99; log entry 5). -/
def State.forgetFrame (s : State) : State :=
  { s with
    len := Config.freeLen (s.draws + 1)
    buf := { s.buf with cells := [] }
    draws := s.draws + 1 }

/-- The reset window (0x00, 0x00, 0x00) (10_state.md R29). -/
def Window.cleared : Window := ⟨0x00#8, 0x00#8, 0x00#8⟩

/-- The window that holds the sync pattern (0xAA, 0x44, 0x12) (40_sync.md R63). -/
def Window.sync : Window := ⟨sync0, sync1, sync2⟩

/-- Shift in the new byte, oldest out (40_sync.md R63, R64). -/
def Window.shift (w : Window) (b : Byte) : Window := ⟨w.w1, w.w2, b⟩

/-- `out(NONE, NONE)` (00_scope.md R14). -/
def Output.quiet : Output := ⟨.none, .none, Option.none⟩

/-- `out(ERR, c)`, with no frame bundle (00_scope.md R14). -/
def Output.error (c : Cause) : Output := ⟨.err, c, Option.none⟩

/-- `out(EOF, NONE)` (43_control.md R98). -/
def Output.endOfFile : Output := ⟨.eof, .none, Option.none⟩

/-- `emit Frame(...)` and `out(ACCEPT, NONE)` (42_crc_validator.md R89). -/
def Output.accepted (b : Bundle) : Output := ⟨.accept, .none, some b⟩

/-- The output of the step just taken, read as NONE where no step has been taken. -/
def State.lastOutput (s : State) : Output := s.out.getD Output.quiet

/-! ## Raising a frame error -/

/-- `raise FrameError(c)`: the step outputs (ERR, c) and drops the frame, `nbyte <- 0`; `win`, `len` and `buf` keep their
values (60_exceptions.md R105, R107, R110). It is the block's whole exception entry: there is no vector, saved state or
mode (R107), and no return, since the next byte is a HUNT byte (R111). -/
def State.raiseFrameError (s : State) (c : Cause) : State :=
  (s.setNbyte 0).emit (Output.error c)

/-! ## Stores of the two BYTE rules -/

/-- On sync detection: `buf[0] <- 0xAA; buf[1] <- 0x44; buf[2] <- 0x12; nbyte <- 3` (40_sync.md R63, R72). -/
def State.openFrame (s : State) : State :=
  (((s.writeByte 0 sync0).writeByte 1 sync1).writeByte 2 sync2).setNbyte 3

/-- `buf[nbyte] <- b; nbyte <- nbyte + 1` (41_framer.md R73). -/
def State.storeNext (s : State) (b : Byte) : State :=
  (s.writeByte s.nbyte b).setNbyte (s.nbyte + 1)

/-- `len <- 28 + MemRead(8, 2)`, exact (41_framer.md R73, R75). -/
def State.readLength (s : State) : State :=
  s.setLen (headerLen + s.memRead 8 2)

/-- Whether this hunt byte completes the sync pattern (40_sync.md R63, R65). -/
def State.completesSync (s : State) (b : Byte) : Bool :=
  s.win.shift b == Window.sync

/-- The buffer indices a BYTE step stores to (20_memory.md R34): 0 to 2 on sync detection, none on another hunt byte,
`nbyte` in ACCUMULATE. -/
def State.storedIndices (s : State) (b : Byte) : List Nat :=
  if s.nbyte = 0 then (if s.completesSync b then [0, 1, 2] else []) else [s.nbyte]

end Sys2Proof.Machine
end

