-- ==== Sys2Proof/Machine/Control.lean ====
section
/-! DEFINITION. The control transactions NOP, EOI and RESET (43_control.md R97 to R99). -/

namespace Sys2Proof.Machine

/-- The meaning of NOP: no state is read or written, the output is NONE (43_control.md R97). -/
def execNop (s : State) : Host.Outcome State Fault Refusal :=
  .next (s.emit Output.quiet)

/-- The meaning of EOI: `nbyte` and `win` are cleared, `len` and `buf` are left, the output is EOF (43_control.md R98). -/
def execEoi (s : State) : Host.Outcome State Fault Refusal :=
  .next (((s.setNbyte 0).setWin Window.cleared).emit Output.endOfFile)

/-- The meaning of RESET: every state element takes its reset value, `len` and `buf` an unspecified one, and the output is
NONE (43_control.md R99, 10_state.md R29; log entry 5). -/
def execReset (s : State) : Host.Outcome State Fault Refusal :=
  .next (((s.forgetFrame.setNbyte 0).setWin Window.cleared).emit Output.quiet)

end Sys2Proof.Machine
end

