-- ==== Sys2Proof/Machine/Crc.lean ====
section
/-! DEFINITION. The CRC-32 function, bit by bit (42_crc_validator.md R83) and in the table form (R84). -/

namespace Sys2Proof.Machine

/-- One shift step: right by one, XOR with the polynomial when the bit shifted out is 1 (42_crc_validator.md R83). -/
def crcShift (c : Crc) : Crc :=
  if c.getLsbD 0 then (c >>> 1) ^^^ crcPoly else c >>> 1

/-- The eight shift steps of one byte (42_crc_validator.md R83). -/
def crcShift8 (c : Crc) : Crc :=
  crcShift (crcShift (crcShift (crcShift (crcShift (crcShift (crcShift (crcShift c)))))))

/-- Take one byte, which enters at bits 7:0 (42_crc_validator.md R83). -/
def crcByte (c : Crc) (b : Byte) : Crc := crcShift8 (c ^^^ b.setWidth 32)

/-- The register after the bytes `m`, from the register `c`. -/
def crcRun (c : Crc) (m : List Byte) : Crc := m.foldl crcByte c

/-- `CRC32(m)` with CRC_INIT and CRC_XOROUT as arguments (42_crc_validator.md R83, 00_scope.md R9, R10). -/
def crc32With (init xorOut : Crc) (m : List Byte) : Crc := crcRun init m ^^^ xorOut

/-- `CRC32(m)` with the values this hardware takes (42_crc_validator.md R83). -/
def crc32 (m : List Byte) : Crc := crc32With crcInit crcXorOut m

/-- `T[k]`: the register after the eight shift steps from `c = k` (42_crc_validator.md R84). -/
def crcTable (k : Byte) : Crc := crcShift8 (k.setWidth 32)

/-- The table form of the loop body: `c <- (c >> 8) ^ T[(c ^ m[i]) & 0xFF]` (42_crc_validator.md R84). -/
def crcByteTable (c : Crc) (b : Byte) : Crc :=
  (c >>> 8) ^^^ crcTable (c.setWidth 8 ^^^ b)

/-- `CRC32(m)` in the table form (42_crc_validator.md R84). -/
def crc32Table (init xorOut : Crc) (m : List Byte) : Crc := m.foldl crcByteTable init ^^^ xorOut

end Sys2Proof.Machine
end

