-- ==== Sys2Proof/Machine/Operands.lean ====
section
/-! DEFINITION. The header fields and the trailer read from the buffer, and the frame bundle made of them
(20_memory.md R42, 30_encoding.md R50, R58, R59). The operand of BYTE is the whole data field of its word
(30_encoding.md R54), which the decoder gives. -/

namespace Sys2Proof.Machine

/-- The message ID, `MemRead(4, 2)` (30_encoding.md R59). -/
def State.msgId (s : State) : BitVec 16 := BitVec.ofNat 16 (s.memRead 4 2)

/-- The message-type field, `(buf[6] >> 4) & 0x3` (30_encoding.md R59, 90_conflicts.md C2). -/
def State.msgType (s : State) : BitVec 2 := (s.readByte 6).extractLsb' 4 2

/-- The body length N, `MemRead(8, 2)` (30_encoding.md R59). -/
def State.bodyLen (s : State) : BitVec 16 := BitVec.ofNat 16 (s.memRead 8 2)

/-- The GPS week, `MemRead(14, 2)` (30_encoding.md R59). -/
def State.week (s : State) : BitVec 16 := BitVec.ofNat 16 (s.memRead 14 2)

/-- The time-of-week in milliseconds, `MemRead(16, 4)` (30_encoding.md R59). -/
def State.towMs (s : State) : BitVec 32 := BitVec.ofNat 32 (s.memRead 16 4)

/-- The received trailer, `MemRead(len, 4)` (42_crc_validator.md R85). -/
def State.trailer (s : State) : Crc := BitVec.ofNat 32 (s.memRead s.len 4)

/-- The frame bundle as the buffer stands (30_encoding.md R58, R59); `bytes` is a copy of `buf[0 .. len+3]`
(20_memory.md R47; log entry 12). -/
def State.frameBundle (s : State) : Bundle where
  frameSize := BitVec.ofNat 17 s.len
  bodyLen   := s.bodyLen
  msgId     := s.msgId
  msgType   := s.msgType
  week      := s.week
  towMs     := s.towMs
  crc       := s.trailer
  bytes     := s.bytes (s.len + trailerLen)

end Sys2Proof.Machine
end

