-- ==== Sys2Proof/Machine/Validator.lean ====
section
/-! DEFINITION. Validate(), the check of a completed frame (42_crc_validator.md R85 to R91, R95). -/

namespace Sys2Proof.Machine

/-- The CRC over the covered bytes `buf[0 .. len-1]`, computed at completion (42_crc_validator.md R86, R87, R93). -/
def State.crcCalc (s : State) : Crc := crc32 (s.bytes s.len)

/-- Validate() for a given computed CRC: the CRC check, then the week check, then acceptance with the bundle
(42_crc_validator.md R85, R91). An implementation may get the computed CRC in another way (R93). -/
def State.validateWith (computed : Crc) (s : State) : State :=
  if computed ≠ s.trailer then s.raiseFrameError .crc
  else if s.week = 0#16 then s.raiseFrameError .week
  else s.emit (Output.accepted s.frameBundle)

/-- Validate() (42_crc_validator.md R85). -/
def State.validate (s : State) : State := s.validateWith s.crcCalc

end Sys2Proof.Machine
end

