-- ==== Sys2Proof/Machine/Framer.lean ====
section
/-! DEFINITION. BYTE: the sync search in HUNT (40_sync.md R63) and store, length check and completion in ACCUMULATE
(41_framer.md R73). The state selects the rule, never the word (30_encoding.md R53). -/

namespace Sys2Proof.Machine

/-- BYTE b in HUNT: shift the window, open a frame when it holds the sync pattern, output NONE (40_sync.md R63). -/
def State.hunt (s : State) (b : Byte) : State :=
  let t := s.setWin (s.win.shift b)
  (if s.completesSync b then t.openFrame else t).emit Output.quiet

/-- The declared frame exceeds the buffer capacity minus 4: `len > MAXRAWLEN - 4`, strict (41_framer.md R74). -/
def State.tooLarge (s : State) : Bool := decide (s.buf.size - trailerLen < s.len)

/-- The frame is not complete: `nbyte < 10 or nbyte < len + 4` (41_framer.md R73). -/
def State.incomplete (s : State) : Bool :=
  decide (s.nbyte < 10 ∨ s.nbyte < s.len + trailerLen)

/-- After the store and the length check: NONE, or `nbyte <- 0` and the verdict on the complete frame
(41_framer.md R73, R76, R77). -/
def State.completeWith (verdict : State → State) (s : State) : State :=
  if s.incomplete then s.emit Output.quiet else verdict (s.setNbyte 0)

/-- After the store: the length read and the length check on the tenth byte, then completion (41_framer.md R73, R74). -/
def State.afterStoreWith (verdict : State → State) (s : State) : State :=
  if s.nbyte = 10 then
    let t := s.readLength
    if t.tooLarge then t.raiseFrameError .len else t.completeWith verdict
  else s.completeWith verdict

/-- The rest of an ACCUMULATE step after its store, with Validate as the verdict (41_framer.md R73). -/
def State.afterStore (s : State) : State := s.afterStoreWith State.validate

/-- BYTE b in ACCUMULATE (41_framer.md R73). An index outside the buffer does not exist (20_memory.md R32): that store
faults, in a state that no run reaches (log entry 9). -/
def State.accumulate (s : State) (b : Byte) : Host.Outcome State Fault Refusal :=
  if s.nbyte < s.buf.size then .next (s.storeNext b).afterStore
  else .fault (.bufferIndex s.nbyte)

/-- The meaning of BYTE b (40_sync.md R63, 41_framer.md R73). -/
def execByte (b : Byte) (s : State) : Host.Outcome State Fault Refusal :=
  if s.nbyte = 0 then .next (s.hunt b) else s.accumulate b

end Sys2Proof.Machine
end

