-- ==== Sys2Proof/Syntax.lean ====
section
/-! DEFINITION. The instructions: the four transactions of opcode_table.json (30_encoding.md R53, R54). -/

namespace Sys2Proof

/-- One input transaction (30_encoding.md R53). The operand of BYTE is the stream byte, unsigned, 8 bits (R54). -/
inductive Instr where
  /-- NOP: no input this step (43_control.md R97). -/
  | nop
  /-- BYTE b: one stream byte (40_sync.md R63, 41_framer.md R73). -/
  | byte (b : Byte)
  /-- EOI: end of input (43_control.md R98). -/
  | eoi
  /-- RESET: synchronous reset (43_control.md R99). -/
  | reset
  deriving DecidableEq, Repr

end Sys2Proof
end

