-- ==== Sys2Proof/Machine/Dispatch.lean ====
section
/-! DEFINITION. One arm per transaction (opcode_table.json), each a direct call of its meaning. -/

namespace Sys2Proof.Machine

def exec (i : Instr) (s : State) : Host.Outcome State Fault Refusal :=
  match i with
  | .nop => Sys2Proof.Machine.execNop s
  | .byte b => Sys2Proof.Machine.execByte b s
  | .eoi => Sys2Proof.Machine.execEoi s
  | .reset => Sys2Proof.Machine.execReset s

end Sys2Proof.Machine
end

