-- ==== Sys2Proof/Pseudo.lean ====
section
/-! DEFINITION. The lines of a transaction program as data: transactions and the pseudo-instructions BYTES and FRAME
(30_encoding.md R60 to R62). Their expansion is in Machine/Assembler.lean. -/

namespace Sys2Proof

/-- The arguments of the pseudo-instruction FRAME: `id` and `week` u16, `type` 0 to 3, `tow` u32, and the body bytes
(30_encoding.md R62). -/
structure FrameArgs where
  msgId   : BitVec 16
  msgType : BitVec 2
  week    : BitVec 16
  towMs   : BitVec 32
  body    : List Byte
  deriving DecidableEq, Repr

/-- One line of a transaction program (30_encoding.md R60 to R62). -/
inductive Line where
  /-- NOP, BYTE 0xHH, EOI or RESET. -/
  | plain (i : Instr)
  /-- BYTES h1 ... hk. -/
  | bytes (bs : List Byte)
  /-- FRAME id=I type=T week=W tow=S body=h1 ... hN. -/
  | frame (a : FrameArgs)
  deriving DecidableEq, Repr

end Sys2Proof
end

