-- ==== Sys2Proof/WellFormed.lean ====
section
/-! DEFINITION. The checks that types do not already make: a transaction word is not reserved (30_encoding.md R55), a
FRAME body has at most 65535 bytes (R62), a buffer capacity is at least 32 (00_scope.md R7). -/

namespace Sys2Proof

/-- A transaction word that has a meaning: BYTE takes any data, the other three ops require `data = 0x00`
(30_encoding.md R53, R55). -/
def TWord.legal (w : TWord) : Bool :=
  w.extractLsb' 8 2 == 1#2 || w.extractLsb' 0 8 == 0#8

/-- Every instruction is well-formed: BYTE admits every byte and the other three have no operand
(30_encoding.md R54); the range of the operand is its type. -/
def Instr.wf : Instr → Bool
  | .nop => true
  | .byte _ => true
  | .eoi => true
  | .reset => true

/-- A FRAME pseudo-instruction's body length is a u16 (30_encoding.md R62). -/
def FrameArgs.wf (a : FrameArgs) : Bool :=
  decide (a.body.length ≤ 65535)

/-- A line is well-formed when its instruction or its FRAME arguments are (30_encoding.md R60 to R62). -/
def Line.wf : Line → Bool
  | .plain i => i.wf
  | .bytes _ => true
  | .frame a => a.wf

/-- A legal value of MAXRAWLEN: at least 32 (00_scope.md R7). -/
def legalCapacity (maxRawLen : Nat) : Bool :=
  decide (32 ≤ maxRawLen)

end Sys2Proof
end

