-- ==== Sys2Proof/Decode.lean ====
section
/-! DEFINITION. The decoder and the encoder of the 10-bit transaction word, from 30_encoding.md R53 to R55 and
opcode_table.json. -/

namespace Sys2Proof

/-- Why a word has no meaning: it is one of the 765 reserved words (30_encoding.md R55). -/
inductive DecodeError where
  | reserved (w : TWord)
  deriving DecidableEq, Repr

/-- `op = t[9:8]` (30_encoding.md R53). -/
def opField (w : TWord) : BitVec 2 := w.extractLsb' 8 2

/-- `data = t[7:0]` (30_encoding.md R53). -/
def dataField (w : TWord) : Byte := w.extractLsb' 0 8

/-- A transaction that takes no operand: its data field must be 0x00 (30_encoding.md R55). -/
def noOperand (w : TWord) (i : Instr) : Except DecodeError Instr :=
  if dataField w = 0x00#8 then .ok i else .error (.reserved w)

/-- The instruction of a transaction word, or the word refused by name: `op` is decoded first, and the word alone
selects the transaction (30_encoding.md R53, R55). -/
def decode (w : TWord) : Except DecodeError Instr :=
  if opField w = 0b01#2 then .ok (.byte (dataField w))
  else if opField w = 0b00#2 then noOperand w .nop
  else if opField w = 0b10#2 then noOperand w .eoi
  else noOperand w .reset

/-- A transaction word from its two fields (30_encoding.md R53). -/
def wordOf (op : BitVec 2) (data : Byte) : TWord := op ++ data

/-- The word of an instruction (30_encoding.md R53, R60). -/
def encode : Instr → TWord
  | .nop => wordOf 0b00#2 0x00#8
  | .byte b => wordOf 0b01#2 b
  | .eoi => wordOf 0b10#2 0x00#8
  | .reset => wordOf 0b11#2 0x00#8

/-- One row of opcode_table.json: a word stands for the row when its bits under `mask` are `pattern`. -/
structure OpcodeRow where
  mnemonic : String
  pattern  : TWord
  mask     : TWord
  deriving DecidableEq, Repr

/-- The rows of opcode_table.json, in its order. -/
def opcodeTable : List OpcodeRow :=
  [⟨"NOP", 0x000#10, 0x3FF#10⟩, ⟨"BYTE", 0x100#10, 0x300#10⟩,
   ⟨"EOI", 0x200#10, 0x3FF#10⟩, ⟨"RESET", 0x300#10, 0x3FF#10⟩]

/-- Whether a word fits a row of the table. -/
def OpcodeRow.fits (r : OpcodeRow) (w : TWord) : Bool := w &&& r.mask == r.pattern

/-- The opcode-table row an instruction stands for. -/
def Instr.mnemonic : Instr → String
  | .nop => "NOP"
  | .byte _ => "BYTE"
  | .eoi => "EOI"
  | .reset => "RESET"

/-- The table numbers a word's bits from 0; of a row given in whole bytes (16 bits for the 10-bit word) the bits above
bit 9 are no bits of the transaction word, and an instruction has none of them set (log entry 11). -/
def tableBits (nbits w : Nat) : Nat := w % 2 ^ nbits

/-- What the decoder reads from an instruction whose bits, numbered as opcode_table.json numbers them, are `w`. -/
def decodeTableWord (nbits w : Nat) : Option Instr :=
  if tableBits nbits w < 1024 then
    match decode (BitVec.ofNat 10 (tableBits nbits w)) with
    | .ok i => some i
    | .error _ => none
  else none

end Sys2Proof
end

