-- ==== Sys2Proof/Machine/Input.lean ====
section
/-! DEFINITION. The input port: which word a step takes, and how a word is presented (30_encoding.md R53; log entry 6). -/

namespace Sys2Proof.Machine

/-- The idle word, NOP: what a step takes when the host presents nothing (43_control.md R97, 60_exceptions.md R120, D14). -/
def idleWord : TWord := 0x000#10

/-- The transaction word of the next step: the oldest word the host has still to present, or the idle word (log entry 6). -/
def State.nextWord (s : State) : TWord := s.input.headD idleWord

/-- The host presents the word `w` to the next step, before all that it has still to present. -/
def State.present (s : State) (w : TWord) : State := { s with input := w :: s.input }

/-- The transaction word of an instruction whose bits are numbered as opcode_table.json numbers them (log entry 11). -/
def tableWord (nbits w : Nat) : TWord := BitVec.ofNat 10 (tableBits nbits w)

end Sys2Proof.Machine
end

