-- ==== Sys2Proof/Machine/Step.lean ====
section
/-! DEFINITION. One step of the block: take one input transaction word, decode it, run it (00_scope.md R3, R15). -/

namespace Sys2Proof.Machine

/-- One step: the next word is taken from the input and runs; a reserved word has no step and is refused
(00_scope.md R3, R15, 30_encoding.md R53, R55). -/
def step (s : State) : Host.Outcome State Fault Refusal :=
  match decode s.nextWord with
  | .ok i => exec i s.takeInput
  | .error (.reserved w) => .refused (.reservedWord w)

/-- The state in which the host presents the instruction's word to the very next step (log entries 6 and 11). -/
def State.withFetchWord (s : State) (nbits w : Nat) : State :=
  s.present (tableWord nbits w)

end Sys2Proof.Machine
end

