-- ==== Sys2Proof/Machine/Wire.lean ====
section
/-! DEFINITION. The wire format of a frame as a byte sequence (30_encoding.md R48 to R52): what the stream must hold for
the block to find, frame and accept it. -/

namespace Sys2Proof.Machine

/-- Byte `i` of a byte sequence; 0 beyond its end, where no field of a whole frame lies. -/
def Wire.byteAt (f : List Byte) (i : Nat) : Byte := f.getD i 0#8

/-- The `n`-byte little-endian field of a frame at offset `a` (20_memory.md R38). -/
def Wire.field (f : List Byte) (a : Nat) : Nat → Nat
  | 0 => 0
  | n + 1 => Wire.field f a n + (Wire.byteAt f (a + n)).toNat * 2 ^ (8 * n)

/-- The body length N at offsets 8 to 9 (30_encoding.md R51). -/
def Wire.bodyLen (f : List Byte) : Nat := Wire.field f 8 2

/-- `frame_size = 28 + N`, the bytes the CRC covers (30_encoding.md R51). -/
def Wire.frameSize (f : List Byte) : Nat := headerLen + Wire.bodyLen f

/-- A whole frame: it begins with the sync pattern and has `32 + N` bytes (30_encoding.md R48, R49, R51). -/
abbrev Wire.isFrame (f : List Byte) : Prop :=
  f.take 3 = syncBytes ∧ f.length = Wire.frameSize f + trailerLen

/-- The trailer holds the CRC-32 of the covered bytes, little-endian (30_encoding.md R52). -/
abbrev Wire.trailerOk (f : List Byte) : Prop :=
  Wire.field f (Wire.frameSize f) 4 = (crc32 (f.take (Wire.frameSize f))).toNat

/-- The GPS week at offsets 14 to 15 (30_encoding.md R50). -/
def Wire.week (f : List Byte) : Nat := Wire.field f 14 2

/-- The bundle of a frame, from its bytes (30_encoding.md R50, R58). -/
def Wire.bundle (f : List Byte) : Bundle where
  frameSize := BitVec.ofNat 17 (Wire.frameSize f)
  bodyLen   := BitVec.ofNat 16 (Wire.bodyLen f)
  msgId     := BitVec.ofNat 16 (Wire.field f 4 2)
  msgType   := (Wire.byteAt f 6).extractLsb' 4 2
  week      := BitVec.ofNat 16 (Wire.week f)
  towMs     := BitVec.ofNat 32 (Wire.field f 16 4)
  crc       := BitVec.ofNat 32 (Wire.field f (Wire.frameSize f) 4)
  bytes     := f

/-- The `n` bytes of a number, least significant first (20_memory.md R38). -/
def Wire.leBytes (n v : Nat) : List Byte :=
  (List.range n).map fun k => BitVec.ofNat 8 (v / 2 ^ (8 * k))

/-- The 28-byte header H of the pseudo-instruction FRAME, every undescribed byte 0x00 (30_encoding.md R62). -/
def Wire.header (a : FrameArgs) : List Byte :=
  syncBytes ++ [0x00#8] ++ Wire.leBytes 2 a.msgId.toNat ++ [a.msgType.setWidth 8 <<< 4, 0x00#8]
    ++ Wire.leBytes 2 a.body.length ++ List.replicate 4 0x00#8 ++ Wire.leBytes 2 a.week.toNat
    ++ Wire.leBytes 4 a.towMs.toNat ++ List.replicate 8 0x00#8

/-- The `32 + N` bytes `H || B || LE32(CRC32(H || B))` of the pseudo-instruction FRAME (30_encoding.md R62). -/
def Wire.frameOf (a : FrameArgs) : List Byte :=
  Wire.header a ++ a.body ++ Wire.leBytes 4 (crc32 (Wire.header a ++ a.body)).toNat

end Sys2Proof.Machine
end

