-- ==== Sys2Proof/Machine/Assembler.lean ====
section
/-! DEFINITION. The written form of a transaction program: its lines, the pseudo-instructions' expansion, and the words
(30_encoding.md R60 to R62). What the spec leaves open of the text form is in log entry 13. -/

namespace Sys2Proof.Machine

/-- The transactions of a line: a plain line is itself, BYTES is one BYTE a byte, in order, and FRAME is BYTES of the
frame's `32 + N` bytes (30_encoding.md R60 to R62). R62 gives a FRAME whose body is longer than 65535 bytes no expansion:
such a line is not well-formed, and neither the parser nor `assemble` lets it come here (DESIGN CHOICE, log entry 13). -/
def expandLine : Line → List Instr
  | .plain i => [i]
  | .bytes bs => bs.map .byte
  | .frame a => (Wire.frameOf a).map .byte

/-- The words of a program, in order (30_encoding.md R60). A program with an ill-formed line, a FRAME whose body is longer
than 65535 bytes, has none (R62 gives it no expansion: DESIGN CHOICE, log entry 13). -/
def assemble (p : List Line) : Option (List TWord) :=
  if p.all Line.wf then some ((p.flatMap expandLine).map encode) else none

/-! ## The text form -/

/-- The code point that a hexadecimal digit's value is added to: 0x30 for the digits 0 to 9, and for the letters the code
point of the first letter less ten. -/
def digitBase (letterBase n : Nat) : Nat := if n < 10 then 0x30 else letterBase

/-- The upper-case hexadecimal digit of a number below 16, as 30_encoding.md R60 to R62 write bytes. -/
def digitChar (n : Nat) : Char := Char.ofNat (digitBase 0x37 n + n)

/-- The lower-case hexadecimal digit of a number below 16 (log entry 13). -/
def lowerDigitChar (n : Nat) : Char := Char.ofNat (digitBase 0x57 n + n)

/-- The value of a hexadecimal digit: the number below 16 that it writes, in either case (log entry 13). -/
def hexDigit (c : Char) : Option Nat :=
  (List.range 16).find? fun n => c == digitChar n || c == lowerDigitChar n

/-- A byte written as exactly two hexadecimal digits (30_encoding.md R60, R61). -/
def hexByte : List Char → Option Byte
  | [h, l] =>
    match hexDigit h, hexDigit l with
    | some x, some y => some (BitVec.ofNat 8 (16 * x + y))
    | _, _ => none
  | _ => none

/-- The bytes of a list of two-digit tokens. -/
def hexBytes : List (List Char) → Option (List Byte)
  | [] => some []
  | t :: ts =>
    match hexByte t, hexBytes ts with
    | some b, some bs => some (b :: bs)
    | _, _ => none

/-- The digits of a numeral in a base, most significant first, after the value read so far. -/
def digitsFrom (base : Nat) (acc : Nat) : List Char → Option Nat
  | [] => some acc
  | c :: cs =>
    match hexDigit c with
    | some d => if d < base then digitsFrom base (base * acc + d) cs else none
    | none => none

/-- A numeral of a FRAME argument: hexadecimal after 0x, else decimal, at least one digit (log entry 13). -/
def numeral : List Char → Option Nat
  | [] => none
  | '0' :: 'x' :: c :: cs => digitsFrom 16 0 (c :: cs)
  | cs => digitsFrom 10 0 cs

/-- A numeral that fits in `w` bits. -/
def field (w : Nat) (cs : List Char) : Option (BitVec w) :=
  match numeral cs with
  | some n => if n < 2 ^ w then some (BitVec.ofNat w n) else none
  | none => none

/-- The rest of a token after a key, when it begins with the key. -/
def afterKey : List Char → List Char → Option (List Char)
  | [], cs => some cs
  | _ :: _, [] => none
  | k :: ks, c :: cs => if k = c then afterKey ks cs else none

/-- The value of the argument `key=value` of the pseudo-instruction FRAME. -/
def frameField (w : Nat) (key tok : List Char) : Option (BitVec w) :=
  (afterKey key tok).bind (field w)

/-- The body of FRAME. 30_encoding.md R62 writes `body=h1 ... hN` with h1 against the equals sign, and does not write the
empty body. White space between `body=` and h1 is accepted as well, and the empty body is `body=` with no byte after it
on the line (DESIGN CHOICE, log entry 13). -/
def frameBody (tok : List Char) (rest : List (List Char)) : Option (List Byte) :=
  match afterKey ['b', 'o', 'd', 'y', '='] tok with
  | some [] => hexBytes rest
  | some cs => hexBytes (cs :: rest)
  | none => none

/-- FRAME arguments that R62 gives an expansion; the others, whose body is longer than 65535 bytes, are refused like every
other argument out of its range (DESIGN CHOICE, log entry 13). -/
def checkedFrame (a : FrameArgs) : Option FrameArgs := if a.wf then some a else none

/-- The arguments of FRAME in the order of 30_encoding.md R62, each within its range. -/
def frameArgs : List (List Char) → Option FrameArgs
  | ti :: tt :: tw :: ts :: tb :: rest => do
    let i ← frameField 16 ['i', 'd', '='] ti
    let t ← frameField 2 ['t', 'y', 'p', 'e', '='] tt
    let w ← frameField 16 ['w', 'e', 'e', 'k', '='] tw
    let s ← frameField 32 ['t', 'o', 'w', '='] ts
    let b ← frameBody tb rest
    checkedFrame ⟨i, t, w, s, b⟩
  | _ => none

/-- The tokens of a line: runs of characters that are no space, tab or carriage return (log entry 13); `cur` holds the
characters of the token being read, last first. -/
def tokensFrom (cur : List Char) : List Char → List (List Char)
  | [] => if cur = [] then [] else [cur.reverse]
  | c :: cs =>
    if c = ' ' ∨ c = '\t' ∨ c = '\r' then
      if cur = [] then tokensFrom [] cs else cur.reverse :: tokensFrom [] cs
    else tokensFrom (c :: cur) cs

/-- The tokens of a line before its comment: a semicolon starts a comment to the end of the line (30_encoding.md R60). -/
def lineTokens (cs : List Char) : List (List Char) := tokensFrom [] (cs.takeWhile (· ≠ ';'))

/-- One line of text: no transaction where it is blank or a comment, a line of the program, or nothing where it is neither
(30_encoding.md R60 to R62). -/
def parseLine (cs : List Char) : Option (List Line) :=
  match lineTokens cs with
  | [] => some []
  | [['N', 'O', 'P']] => some [.plain .nop]
  | [['E', 'O', 'I']] => some [.plain .eoi]
  | [['R', 'E', 'S', 'E', 'T']] => some [.plain .reset]
  | [['B', 'Y', 'T', 'E'], '0' :: 'x' :: ds] => (hexByte ds).map fun b => [.plain (.byte b)]
  | ['B', 'Y', 'T', 'E', 'S'] :: ts => (hexBytes ts).map fun bs => [.bytes bs]
  | ['F', 'R', 'A', 'M', 'E'] :: ts => (frameArgs ts).map fun a => [.frame a]
  | _ => none

/-- The lines of a text, split at line feeds; `cur` holds the characters of the line being read, last first. -/
def textLines (cur : List Char) : List Char → List (List Char)
  | [] => [cur.reverse]
  | c :: cs => if c = '\n' then cur.reverse :: textLines [] cs else textLines (c :: cur) cs

/-- The program of a list of text lines, nothing where one of them is no line (30_encoding.md R60). -/
def parseLines : List (List Char) → Option (List Line)
  | [] => some []
  | l :: ls =>
    match parseLine l, parseLines ls with
    | some a, some b => some (a ++ b)
    | _, _ => none

/-- The program of a text: one transaction a line (30_encoding.md R60). -/
def parseText (cs : List Char) : Option (List Line) := parseLines (textLines [] cs)

/-- The line of an instruction (30_encoding.md R60). -/
def instrText : Instr → List Char
  | .nop => ['N', 'O', 'P']
  | .byte b => ['B', 'Y', 'T', 'E', ' ', '0', 'x', digitChar (b.toNat / 16), digitChar (b.toNat % 16)]
  | .eoi => ['E', 'O', 'I']
  | .reset => ['R', 'E', 'S', 'E', 'T']

end Sys2Proof.Machine
end

