-- ==== Sys2Proof/Machine/FileMode.lean ====
section
/-! DEFINITION. File mode: the host loop FILE_STEP (43_control.md R101) and the source's bulk reads (R102). -/

namespace Sys2Proof.Machine

/-- What one call of the file entry answers: the first output that is not NONE, the block's state, and the bytes of the
source that were not read (43_control.md R101; log entry 14). -/
structure FileResult where
  output : Output
  state  : State
  rest   : List Byte
  deriving DecidableEq, Repr

/-- A call that ends with the block in state `t`, `rest` unread. -/
def fileReturn (t : State) (rest : List Byte) : FileResult := ⟨t.lastOutput, t, rest⟩

/-- The source is exhausted: issue EOI and return (43_control.md R98, R101). -/
def fileEnd (s : State) : Host.Outcome FileResult Fault Refusal :=
  match exec .eoi s with
  | .next t => .next (fileReturn t [])
  | .fault r => .fault r
  | .refused r => .refused r

/-- `FILE_STEP(source)`: issue BYTE after BYTE until an output is not NONE, or EOI when the source is exhausted
(43_control.md R101). -/
def fileStep : List Byte → State → Host.Outcome FileResult Fault Refusal
  | [], s => fileEnd s
  | b :: bs, s =>
    match exec (.byte b) s with
    | .next t => if t.lastOutput.status = .none then fileStep bs t else .next (fileReturn t bs)
    | .fault r => .fault r
    | .refused r => .refused r

/-- Bytes read in bulk, stored at `nbyte` onwards (43_control.md R102). -/
def State.storeBulk (s : State) (bs : List Byte) : State := bs.foldl State.storeNext s

/-- The declared remainder: the `len - 6` bytes up to `len + 4` in one read, then Validate; a read that stops short is
the EOI (43_control.md R102). -/
def bulkRemainder (bs : List Byte) (s : State) : Host.Outcome FileResult Fault Refusal :=
  let t := s.storeBulk (bs.take (s.len - 6))
  if bs.length < s.len - 6 then fileEnd t
  else .next (fileReturn (t.setNbyte 0).validate (bs.drop (s.len - 6)))

/-- After sync: the next 7 header bytes in one read, the length check, then the remainder (43_control.md R102). -/
def bulkFrame (bs : List Byte) (s : State) : Host.Outcome FileResult Fault Refusal :=
  let t := s.storeBulk (bs.take 7)
  if bs.length < 7 then fileEnd t
  else if t.readLength.tooLarge then .next (fileReturn (t.readLength.raiseFrameError .len) (bs.drop 7))
  else bulkRemainder (bs.drop 7) t.readLength

/-- The file entry with bulk reads: the sync search byte by byte, then the frame in bulk (43_control.md R102). It starts in
HUNT, as every call does. -/
def fileStepBulk : List Byte → State → Host.Outcome FileResult Fault Refusal
  | [], s => fileEnd s
  | b :: bs, s =>
    match exec (.byte b) s with
    | .next t => if t.nbyte = 3 then bulkFrame bs t else fileStepBulk bs t
    | .fault r => .fault r
    | .refused r => .refused r

end Sys2Proof.Machine
end

