-- ==== Sys2Proof/Machine/Incremental.lean ====
section
/-! DEFINITION. The other implementation of the check that the spec allows: a CRC register updated one byte a BYTE step
(42_crc_validator.md R93). The block itself computes the CRC at completion. -/

namespace Sys2Proof.Machine

/-- The block's state beside an incremental CRC register (42_crc_validator.md R93). -/
structure IncState where
  base   : State
  crcReg : Crc
  deriving DecidableEq, Repr

/-- The register at sync detection: what rule R83 gives after the bytes 0xAA 0x44 0x12 (42_crc_validator.md R93). -/
def crcAfterSync : Crc := crcRun crcInit syncBytes

/-- Whether the byte stored at `nbyte` is covered by the CRC: index 3 to `len - 1` (42_crc_validator.md R93). -/
def State.covers (s : State) : Bool := decide (s.nbyte < 10 ∨ s.nbyte < s.len)

/-- The register after an ACCUMULATE byte: trailer bytes are not taken (42_crc_validator.md R93). -/
def IncState.nextReg (s : IncState) (b : Byte) : Crc :=
  if s.base.covers then crcByte s.crcReg b else s.crcReg

/-- BYTE b in the incremental implementation (42_crc_validator.md R93). -/
def IncState.execByte (b : Byte) (s : IncState) : Host.Outcome IncState Fault Refusal :=
  if s.base.nbyte = 0 then
    .next ⟨s.base.hunt b, if s.base.completesSync b then crcAfterSync else s.crcReg⟩
  else if s.base.nbyte < s.base.buf.size then
    .next ⟨(s.base.storeNext b).afterStoreWith (State.validateWith (s.nextReg b ^^^ crcXorOut)), s.nextReg b⟩
  else .fault (.bufferIndex s.base.nbyte)

/-- A control transaction leaves the register, which the next sync detection restarts (42_crc_validator.md R93). -/
def IncState.execControl (i : Instr) (s : IncState) : Host.Outcome IncState Fault Refusal :=
  match exec i s.base with
  | .next t => .next ⟨t, s.crcReg⟩
  | .fault r => .fault r
  | .refused r => .refused r

/-- One transaction of the incremental implementation (42_crc_validator.md R93). -/
def IncState.exec (i : Instr) (s : IncState) : Host.Outcome IncState Fault Refusal :=
  match i with
  | .nop => s.execControl .nop
  | .byte b => s.execByte b
  | .eoi => s.execControl .eoi
  | .reset => s.execControl .reset

/-- How many bytes of the frame in progress the CRC covers so far: bytes 0 to `len - 1` at most (42_crc_validator.md R87). -/
def State.coveredCount (s : State) : Nat := if s.nbyte < 10 then s.nbyte else min s.nbyte s.len

/-- While a frame is in progress the register is that of the covered bytes held (42_crc_validator.md R93). -/
def IncState.Tracks (s : IncState) : Prop :=
  3 ≤ s.base.nbyte → s.crcReg = crcRun crcInit (s.base.bytes s.base.coveredCount)

end Sys2Proof.Machine
end

