-- ==== Sys2Proof/Machine/Flags.lean ====
section
/-! DEFINITION. The codes of the status and cause outputs (30_encoding.md R56, R57). The block has no status flags or
condition codes (10_state.md R25). -/

namespace Sys2Proof.Machine

/-- The two status bits (30_encoding.md R56). -/
def Status.code : Status → BitVec 2
  | .none => 0b00#2
  | .accept => 0b01#2
  | .err => 0b11#2
  | .eof => 0b10#2

/-- The status read as a two's-complement number, which carries the source's return codes (30_encoding.md R56). -/
def Status.value (s : Status) : Int := s.code.toInt

/-- The two cause bits (30_encoding.md R57). -/
def Cause.code : Cause → BitVec 2
  | .none => 0b00#2
  | .len => 0b01#2
  | .crc => 0b10#2
  | .week => 0b11#2

/-- The number a downstream return code stands for (42_crc_validator.md R90). -/
def downstreamValue : Config.DownstreamCode → Int
  | .minusOne => -1
  | .zero => 0
  | .one => 1
  | .two => 2
  | .three => 3
  | .nine => 9

/-- The return code of a composite model of block and downstream: -1 for a block ERR, -2 for a block EOF, 0 for a block
NONE, and for a block ACCEPT the downstream's code, which is drawn (42_crc_validator.md R90, U11; log entry 15). -/
def compositeReturn (o : Output) (draw : Nat) : Int :=
  match o.status with
  | .none => 0
  | .err => -1
  | .eof => -2
  | .accept => downstreamValue (Config.downstreamCode draw)

end Sys2Proof.Machine
end

