-- ==== Sys2Proof/Machine/SharedWindow.lean ====
section
/-! DEFINITION. The other layout of the sync window that the spec allows: the window kept in `buf[0..2]`
(40_sync.md R72, 92_eei_decisions.md D7). It runs over the same State and leaves the field `win` unused. -/

namespace Sys2Proof.Machine

/-- The three bytes of the window in this layout. -/
def State.sharedWindow (s : State) : Window := ⟨s.readByte 0, s.readByte 1, s.readByte 2⟩

/-- Write the window into `buf[0..2]`. -/
def State.setSharedWindow (s : State) (w : Window) : State :=
  ((s.writeByte 0 w.w0).writeByte 1 w.w1).writeByte 2 w.w2

/-- BYTE b in HUNT in this layout: shift `buf[0..2]`, compare, enter ACCUMULATE (40_sync.md R63, R72). -/
def State.sharedHunt (s : State) (b : Byte) : State :=
  let t := s.setSharedWindow (s.sharedWindow.shift b)
  (if s.sharedWindow.shift b = Window.sync then t.setNbyte 3 else t).emit Output.quiet

/-- One transaction in this layout (40_sync.md R72). -/
def sharedExec (i : Instr) (s : State) : Host.Outcome State Fault Refusal :=
  match i with
  | .nop => .next (s.emit Output.quiet)
  | .byte b => if s.nbyte = 0 then .next (s.sharedHunt b) else s.accumulate b
  | .eoi => .next (((s.setNbyte 0).setSharedWindow Window.cleared).emit Output.endOfFile)
  | .reset => .next (((s.forgetFrame.setNbyte 0).setSharedWindow Window.cleared).emit Output.quiet)

end Sys2Proof.Machine
end

