-- ==== Sys2Proof/Machine/Stream.lean ====
section
/-! DEFINITION. Transaction sequences: the outputs, one a transaction, and the state after them (00_scope.md R3, R15,
43_control.md R100). -/

namespace Sys2Proof.Machine

/-- The outputs of a transaction sequence, in order, and the state after it; a fault or a refusal ends it. -/
def feed : List Instr → State → Host.Outcome (List Output × State) Fault Refusal
  | [], s => .next ([], s)
  | i :: is, s =>
    match exec i s with
    | .next t =>
      match feed is t with
      | .next (os, u) => .next (t.lastOutput :: os, u)
      | .fault r => .fault r
      | .refused r => .refused r
    | .fault r => .fault r
    | .refused r => .refused r

/-- Stream mode: one BYTE transaction an input byte (43_control.md R100). -/
def feedBytes (bs : List Byte) (s : State) : Host.Outcome (List Output × State) Fault Refusal :=
  feed (bs.map .byte) s

end Sys2Proof.Machine
end

