-- ==== Sys2Proof/Safety.lean ====
section
/-! DEFINITION. The terms that claims about the block use: the invariants of 10_state.md R28, what makes two states
indistinguishable (R30), and the shape of an output (30_encoding.md R57, R58). -/

namespace Sys2Proof.Machine

/-- What holds between any two steps after reset: the five invariants of 10_state.md R28, the legal capacity
(00_scope.md R7) and the canonical form of the buffer's cells. -/
structure State.Inv (s : State) : Prop where
  /-- MAXRAWLEN is at least 32 (00_scope.md R7). -/
  capacity : 32 ≤ s.buf.size
  /-- The buffer's cells are in canonical form, inside the buffer. -/
  cells : Memory.wf s.buf.size s.buf.cells
  /-- R28 (1). -/
  phase : s.nbyte = 0 ∨ 3 ≤ s.nbyte
  /-- R28 (2). -/
  syncHeld : 3 ≤ s.nbyte → s.readByte 0 = sync0 ∧ s.readByte 1 = sync1 ∧ s.readByte 2 = sync2
  /-- R28 (3). -/
  lengthKnown : 10 ≤ s.nbyte →
    s.len = 28 + s.memRead 8 2 ∧ s.len ≤ s.buf.size - 4 ∧ s.nbyte ≤ s.len + 3
  /-- R28 (4). -/
  inBuffer : s.nbyte ≤ s.buf.size - 1
  /-- R28 (5). -/
  windowHeld : 3 ≤ s.nbyte → s.win = Window.sync

/-- Two states that agree on everything a later output may depend on: all but `len` before the length is known, and all
but the buffer bytes that the frame in progress has not written (10_state.md R30). -/
structure State.Agrees (s t : State) : Prop where
  nbyte : s.nbyte = t.nbyte
  win   : s.win = t.win
  size  : s.buf.size = t.buf.size
  len   : 10 ≤ s.nbyte → s.len = t.len
  bytes : ∀ i, i < s.nbyte → s.readByte i = t.readByte i

/-- The outputs a step may produce: a cause exactly with ERR, and a bundle exactly with ACCEPT
(30_encoding.md R57, R58). -/
def Output.legal (o : Output) : Prop :=
  (o.cause ≠ .none ↔ o.status = .err) ∧ (o.bundle.isSome = true ↔ o.status = .accept)

/-- The block's state in the layout of 40_sync.md R72 beside the block's own: the same but that `buf[0..2]` holds the
window. -/
structure State.SharesWindow (s t : State) : Prop where
  inv    : s.Inv
  nbyte  : t.nbyte = s.nbyte
  len    : t.len = s.len
  size   : t.buf.size = s.buf.size
  draws  : t.draws = s.draws
  window : t.sharedWindow = s.win
  bytes  : ∀ i, 3 ≤ i → t.readByte i = s.readByte i

end Sys2Proof.Machine
end

