-- ==== Sys2Proof/Certificates/Slice0/Obligations.lean ====
section
/-! DEFINITION. The statements for the provers. Each docstring names the rule of spec/ it formalises. -/

open Sys2Proof Sys2Proof.Machine

/-! ## Encoding -/

/-- The words of 30_encoding.md R53 and R60, written out, decode to the transactions they stand for, and three reserved
words (R55) are refused. -/
def Obligations.SampleWordsDecode : Prop :=
  decode 0b0000000000#10 = .ok .nop ∧ decode 0b0110101010#10 = .ok (.byte 0xAA#8) ∧
  decode 0b0100000000#10 = .ok (.byte 0x00#8) ∧ decode 0b0111111111#10 = .ok (.byte 0xFF#8) ∧
  decode 0b1000000000#10 = .ok .eoi ∧ decode 0b1100000000#10 = .ok .reset ∧
  decode 0b0000000001#10 = .error (.reserved 0x001#10) ∧ decode 0b1011111111#10 = .error (.reserved 0x2FF#10) ∧
  decode 0b1110000000#10 = .error (.reserved 0x380#10)

/-- 30_encoding.md R53, R60: the decoder gives an instruction back from its word, and reads it from no other word. -/
def Obligations.DecodeAndEncodeAgree : Prop :=
  (∀ i, decode (encode i) = .ok i) ∧ ∀ w i, decode w = .ok i → encode i = w

/-- 30_encoding.md R55: the words with `op` other than 01 and `data` other than 0x00 are refused by step, and they are 765
of the 1024 words, beside 256 BYTE words and 3 control words. -/
def Obligations.ReservedWordsAreRefused : Prop :=
  (∀ s : State, s.nextWord.extractLsb' 8 2 ≠ 0b01#2 → s.nextWord.extractLsb' 0 8 ≠ 0x00#8 →
    step s = .refused (.reservedWord s.nextWord)) ∧
  (let words := (List.range 1024).map fun n => decode (BitVec.ofNat 10 n)
   (words.countP fun d => match d with | .ok (.byte _) => true | _ => false) = 256 ∧
   (words.countP fun d => match d with | .ok .nop | .ok .eoi | .ok .reset => true | _ => false) = 3 ∧
   (words.countP fun d => match d with | .error _ => true | _ => false) = 765)

/-- 30_encoding.md R60: a transaction's line reads back as that transaction; how the text is split into tokens is the
model's choice (log entry 13). -/
def Obligations.LineTextReadsBack : Prop :=
  ∀ i, parseLine (instrText i) = some [.plain i]

/-- 30_encoding.md R62, R50: FRAME expands to BYTEs of a whole frame of `32 + N` bytes with a correct trailer, whose header
fields are the arguments. -/
def Obligations.FramePseudoBuildsFrame : Prop :=
  ∀ a : FrameArgs, a.wf = true →
    ∃ f, expandLine (.frame a) = f.map .byte ∧ f.length = 32 + a.body.length ∧ Wire.isFrame f ∧ Wire.trailerOk f ∧
      (f.drop 28).take a.body.length = a.body ∧ (Wire.byteAt f 6).toNat = 16 * a.msgType.toNat ∧
      (∀ i ∈ [3, 7, 10, 11, 12, 13, 20, 21, 22, 23, 24, 25, 26, 27], Wire.byteAt f i = 0x00#8) ∧
      Wire.bundle f = ⟨BitVec.ofNat 17 (28 + a.body.length), BitVec.ofNat 16 a.body.length, a.msgId, a.msgType, a.week,
        a.towMs, crc32 (f.take (28 + a.body.length)), f⟩

/-! ## Outputs -/

/-- 30_encoding.md R56, R57: the two-bit codes of status and cause, and the status as a two's-complement number. -/
def Obligations.StatusAndCauseCodes : Prop :=
  (Status.none.code = 0b00#2 ∧ Status.accept.code = 0b01#2 ∧ Status.err.code = 0b11#2 ∧ Status.eof.code = 0b10#2) ∧
  (Status.none.value = 0 ∧ Status.accept.value = 1 ∧ Status.err.value = -1 ∧ Status.eof.value = -2) ∧
  (Cause.none.code = 0b00#2 ∧ Cause.len.code = 0b01#2 ∧ Cause.crc.code = 0b10#2 ∧ Cause.week.code = 0b11#2)

/-- 30_encoding.md R57, R58: every transaction that completes produces one output, with a cause exactly with ERR and a bundle
exactly with ACCEPT. -/
def Obligations.EveryTransactionHasOneOutput : Prop :=
  ∀ i (s t : State), exec i s = .next t →
    ∃ o, t.out = some o ∧ (o.cause ≠ .none ↔ o.status = .err) ∧ (o.bundle.isSome = true ↔ o.status = .accept)

/-- 60_exceptions.md R106: EOI outputs (EOF, NONE) on every use; and no other transaction outputs EOF. -/
def Obligations.EofComesFromEoiAlone : Prop :=
  (∀ s : State, ∃ t, exec .eoi s = .next t ∧ t.out = some ⟨.eof, .none, none⟩) ∧
  ∀ i (s t : State), exec i s = .next t → t.lastOutput.status = .eof → i = .eoi

/-- 42_crc_validator.md R90: the return code of a composite model of block and downstream. Which of the six codes an
accepted frame gives is free (log entry 15). -/
def Obligations.CompositeReturnCodes : Prop :=
  ∀ (o : Output) (k : Nat),
    (o.status = .err → compositeReturn o k = -1) ∧ (o.status = .eof → compositeReturn o k = -2) ∧
    (o.status = .none → compositeReturn o k = 0) ∧
    (o.status = .accept → compositeReturn o k ∈ ([-1, 0, 1, 2, 3, 9] : List Int))

/-! ## The step -/

/-- 00_scope.md R3, R15: when the word taken decodes to `i`, the step is `exec i` after the word is taken; with nothing
presented the step is a NOP (43_control.md R97, 60_exceptions.md R120; log entry 6). -/
def Obligations.StepRunsDecodedTransaction : Prop :=
  (∀ (s : State) w ws i, s.input = w :: ws → decode w = .ok i → step s = exec i { s with input := ws }) ∧
  ∀ s : State, s.input = [] → step s = exec .nop s

/-- 00_scope.md R3: as many steps as words presented run the transactions they encode, in order, and leave what is presented
after them (the list of presented words is the model's choice, log entry 6). -/
def Obligations.StepsRunPresentedStream : Prop :=
  ∀ (is : List Instr) (s : State) (ws : List TWord),
    core.run is.length { s with input := is.map encode ++ ws } =
      match feed is { s with input := ws } with
      | .next (_, t) => .next t
      | .fault r => .fault r
      | .refused r => .refused r

/-! ## Control transactions -/

/-- 43_control.md R97. -/
def Obligations.NopChangesNothing : Prop :=
  ∀ s : State, exec .nop s = .next { s with out := some ⟨.none, .none, none⟩ }

/-- 43_control.md R98. -/
def Obligations.EoiClearsFrameAndWindow : Prop :=
  ∀ s : State, exec .eoi s =
    .next { s with nbyte := 0, win := ⟨0x00#8, 0x00#8, 0x00#8⟩, out := some ⟨.eof, .none, none⟩ }

/-- 43_control.md R99: RESET completes in every state; `len` and `buf` are unspecified, and what the host has still to
present and the capacity are untouched. -/
def Obligations.ResetTransactionClears : Prop :=
  ∀ s : State, ∃ t, exec .reset s = .next t ∧ t.nbyte = 0 ∧ t.win = ⟨0x00#8, 0x00#8, 0x00#8⟩ ∧
    t.out = some ⟨.none, .none, none⟩ ∧ t.buf.size = s.buf.size ∧ t.input = s.input

/-- 10_state.md R29, 70_reset_and_hazards.md R122: the reset values the spec gives, after power-on reset, which produces no
output, and after RESET. -/
def Obligations.ResetValues : Prop :=
  (State.reset.nbyte = 0 ∧ State.reset.win = ⟨0x00#8, 0x00#8, 0x00#8⟩ ∧ State.reset.out = none) ∧
  ∀ s t : State, exec .reset s = .next t → t.nbyte = 0 ∧ t.win = ⟨0x00#8, 0x00#8, 0x00#8⟩

/-- 43_control.md R98, R99, R103, 92_eei_decisions.md D13: after EOI or RESET, whatever frame was in progress, every later
output is that of an instance of the same capacity fresh from reset. -/
def Obligations.EoiAndResetActLikeFreshInstance : Prop :=
  ∀ s : State, s.Inv → ∀ i, i = .eoi ∨ i = .reset →
    ∃ t, exec i s = .next t ∧ ∀ is, ∃ os u v, feed is t = .next (os, u) ∧
      feed is { State.reset with buf := ⟨s.buf.size, []⟩ } = .next (os, v) ∧ u.nbyte = v.nbyte

/-- 43_control.md R104: leaving the NOPs out of a sequence changes neither the outputs of the other transactions nor the
state after them but for the last step's output. -/
def Obligations.NopsChangeNoOtherOutput : Prop :=
  ∀ (is : List Instr) (s t : State) os, feed is s = .next (os, t) →
    ∃ u, feed (is.filter fun i => decide (i ≠ .nop)) s =
        .next (((is.zip os).filter fun p => decide (p.1 ≠ .nop)).map Prod.snd, u) ∧
      { u with out := none } = { t with out := none }

/-! ## BYTE in HUNT -/

/-- 40_sync.md R63: the window shifts, a completed sync pattern opens a frame, the output is NONE, and all else is
unchanged. -/
def Obligations.HuntByteSearchesSync : Prop :=
  ∀ (s : State) b, s.nbyte = 0 → ∃ t, exec (.byte b) s = .next t ∧
    t.win = ⟨s.win.w1, s.win.w2, b⟩ ∧ t.out = some ⟨.none, .none, none⟩ ∧
    t.len = s.len ∧ t.buf.size = s.buf.size ∧ t.draws = s.draws ∧ t.input = s.input ∧
    if s.win.w1 = 0xAA#8 ∧ s.win.w2 = 0x44#8 ∧ b = 0x12#8 then
      t.nbyte = 3 ∧ t.readByte 0 = 0xAA#8 ∧ t.readByte 1 = 0x44#8 ∧ t.readByte 2 = 0x12#8 ∧
        ∀ a, 3 ≤ a → t.readByte a = s.readByte a
    else t.nbyte = 0 ∧ t.buf = s.buf

/-- 40_sync.md R65: a sync is detected exactly when the last three bytes received in HUNT are 0xAA, 0x44, 0x12. -/
def Obligations.SyncIsLastThreeHuntBytes : Prop :=
  ∀ (s s₁ s₂ : State) b₁ b₂ b₃, s.nbyte = 0 → exec (.byte b₁) s = .next s₁ → s₁.nbyte = 0 →
    exec (.byte b₂) s₁ = .next s₂ → s₂.nbyte = 0 →
    ∃ s₃, exec (.byte b₃) s₂ = .next s₃ ∧ (s₃.nbyte = 3 ↔ b₁ = 0xAA#8 ∧ b₂ = 0x44#8 ∧ b₃ = 0x12#8) ∧
      (s₃.nbyte = 0 ∨ s₃.nbyte = 3)

/-- 40_sync.md R70: from HUNT, whatever the window holds, a frame's sync is detected on exactly its third byte. -/
def Obligations.FrameFoundOnThirdByte : Prop :=
  ∀ s : State, s.nbyte = 0 → ∃ s₁ s₂ s₃,
    exec (.byte 0xAA#8) s = .next s₁ ∧ s₁.nbyte = 0 ∧ exec (.byte 0x44#8) s₁ = .next s₂ ∧ s₂.nbyte = 0 ∧
    exec (.byte 0x12#8) s₂ = .next s₃ ∧ s₃.nbyte = 3

/-- 40_sync.md R69: overlapping prefixes resolve by the sliding window alone. -/
def Obligations.OverlappingPrefixesResolve : Prop :=
  ∀ s : State, s.nbyte = 0 →
    (∃ t os, feedBytes [0xAA#8, 0xAA#8, 0x44#8] s = .next (os, t) ∧ t.nbyte = 0) ∧
    (∃ t os, feedBytes [0xAA#8, 0xAA#8, 0x44#8, 0x12#8] s = .next (os, t) ∧ t.nbyte = 3) ∧
    (∃ t os, feedBytes [0xAA#8, 0x44#8, 0xAA#8, 0x44#8] s = .next (os, t) ∧ t.nbyte = 0) ∧
    (∃ t os, feedBytes [0xAA#8, 0x44#8, 0xAA#8, 0x44#8, 0x12#8] s = .next (os, t) ∧ t.nbyte = 3) ∧
    (∃ t os, feedBytes [0xAA#8, 0x44#8, 0x44#8, 0x12#8] s = .next (os, t) ∧ t.nbyte = 0) ∧
    (∃ t os, feedBytes [0xAA#8, 0x12#8, 0x44#8, 0x12#8] s = .next (os, t) ∧ t.nbyte = 0) ∧
    (s.win.w2 ≠ 0xAA#8 → ∃ t os, feedBytes [0x44#8, 0x12#8] s = .next (os, t) ∧ t.nbyte = 0)

/-- 40_sync.md R71: hunt bytes that complete no sync pattern, however many, output NONE and leave the block in HUNT. -/
def Obligations.GarbageIsConsumedQuietly : Prop :=
  ∀ (bs : List Byte) (s : State), s.nbyte = 0 →
    ¬ [0xAA#8, 0x44#8, 0x12#8] <:+: s.win.w1 :: s.win.w2 :: bs →
    ∃ t, feedBytes bs s = .next (List.replicate bs.length Output.quiet, t) ∧ t.nbyte = 0 ∧ t.buf = s.buf

/-- 40_sync.md R68: after the return to HUNT the stale window behaves exactly like the reset window: the first two hunt
bytes complete no sync, and no later output differs. -/
def Obligations.StaleWindowActsLikeReset : Prop :=
  ∀ s : State, s.Inv → s.nbyte = 0 → s.win = ⟨0xAA#8, 0x44#8, 0x12#8⟩ →
    (∀ d₁ d₂, ∃ t u os ps, feedBytes [d₁] s = .next (os, t) ∧ t.nbyte = 0 ∧ t.win = ⟨0x44#8, 0x12#8, d₁⟩ ∧
      feedBytes [d₁, d₂] s = .next (ps, u) ∧ u.nbyte = 0 ∧ u.win = ⟨0x12#8, d₁, d₂⟩) ∧
    ∀ is, ∃ os t u, feed is s = .next (os, t) ∧
      feed is { s with win := ⟨0x00#8, 0x00#8, 0x00#8⟩ } = .next (os, u) ∧ t.nbyte = u.nbyte

/-! ## BYTE in ACCUMULATE -/

/-- 41_framer.md R77, R73: an ACCUMULATE byte that neither fails the length check nor completes the frame is stored and
counted, reads the length when it is the tenth, and outputs NONE; all else is unchanged. -/
def Obligations.AccumulateByteIsStored : Prop :=
  ∀ (s : State) (b : Byte) (len : Nat), 3 ≤ s.nbyte → s.nbyte < s.buf.size →
    len = (if s.nbyte = 9 then 28 + ((s.readByte 8).toNat + 256 * b.toNat) else s.len) →
    ¬ (s.nbyte = 9 ∧ s.buf.size - 4 < len) → ¬ (10 ≤ s.nbyte ∧ len + 4 ≤ s.nbyte + 1) →
    ∃ t, exec (.byte b) s = .next t ∧ t.nbyte = s.nbyte + 1 ∧ t.len = len ∧ t.readByte s.nbyte = b ∧
      t.out = some ⟨.none, .none, none⟩ ∧ t.win = s.win ∧ t.buf.size = s.buf.size ∧ t.draws = s.draws ∧
      t.input = s.input ∧ ∀ a, a ≠ s.nbyte → t.readByte a = s.readByte a

/-- 41_framer.md R74, R75: the tenth byte of a frame whose exact size `28 + N` exceeds `MAXRAWLEN - 4` drops the frame with
(ERR, LEN), `len` keeping the too-large value; no other step outputs the cause LEN. -/
def Obligations.LengthErrorOnTenthByteOnly : Prop :=
  (∀ (s : State) (b : Byte), s.nbyte = 9 → 9 < s.buf.size →
    s.buf.size - 4 < 28 + ((s.readByte 8).toNat + 256 * b.toNat) →
    ∃ t, exec (.byte b) s = .next t ∧ t.nbyte = 0 ∧ t.len = 28 + ((s.readByte 8).toNat + 256 * b.toNat) ∧
      t.out = some ⟨.err, .len, none⟩ ∧ t.win = s.win ∧ t.readByte 9 = b ∧
      ∀ a, a ≠ 9 → t.readByte a = s.readByte a) ∧
  ∀ i (s t : State), exec i s = .next t → t.lastOutput.cause = .len →
    ∃ b, i = .byte b ∧ s.nbyte = 9 ∧ s.buf.size - 4 < 28 + ((s.readByte 8).toNat + 256 * b.toNat)

/-- 42_crc_validator.md R85, R86, R88, R91: the byte that completes a frame returns the block to HUNT with exactly one verdict:
(ERR, CRC) when the trailer differs from the CRC-32 of the bytes 0 to `len - 1`, else (ERR, WEEK) when the week is zero, else
(ACCEPT, NONE). Beside the stored byte and `nbyte` no state changes. -/
def Obligations.CompletingByteGivesVerdict : Prop :=
  ∀ (s : State) (b : Byte), 10 ≤ s.nbyte → s.nbyte + 1 = s.len + 4 → s.nbyte < s.buf.size →
    ∃ t, exec (.byte b) s = .next t ∧ t.nbyte = 0 ∧ t.len = s.len ∧ t.win = s.win ∧ t.draws = s.draws ∧
      t.input = s.input ∧ t.buf.size = s.buf.size ∧ t.readByte s.nbyte = b ∧
      (∀ a, a ≠ s.nbyte → t.readByte a = s.readByte a) ∧
      if (crc32 (t.bytes s.len)).toNat ≠ t.memRead s.len 4 then t.out = some ⟨.err, .crc, none⟩
      else if t.memRead 14 2 = 0 then t.out = some ⟨.err, .week, none⟩
      else ∃ f, t.out = some ⟨.accept, .none, some f⟩

/-- 30_encoding.md R59, R58: the bundle of an accepted frame holds the header fields, the trailer, which equals the CRC, and
the bytes 0 to `len + 3` of the buffer as they stand after the accepting step. -/
def Obligations.AcceptedBundleHoldsFields : Prop :=
  ∀ i (s t : State) f, exec i s = .next t → t.lastOutput.bundle = some f →
    f.frameSize = BitVec.ofNat 17 t.len ∧ f.bodyLen.toNat = t.memRead 8 2 ∧ f.msgId.toNat = t.memRead 4 2 ∧
    f.msgType.toNat = (t.readByte 6).toNat / 16 % 4 ∧ f.week.toNat = t.memRead 14 2 ∧ f.week ≠ 0#16 ∧
    f.towMs.toNat = t.memRead 16 4 ∧ f.crc.toNat = t.memRead t.len 4 ∧ f.crc = crc32 (t.bytes t.len) ∧
    f.bytes = t.bytes (t.len + 4)

/-- 41_framer.md R78: a bundle is emitted only by the step that stores the frame's last trailer byte. -/
def Obligations.NoPartialMessage : Prop :=
  ∀ i (s t : State), s.Inv → exec i s = .next t → t.lastOutput.bundle.isSome = true →
    ∃ b, i = .byte b ∧ 10 ≤ s.nbyte ∧ s.nbyte + 1 = s.len + 4

/-- 60_exceptions.md R110, R111: a step that outputs ERR leaves the block in HUNT with `win` unchanged, `len` changed only by
the length read of the tenth byte, and the buffer changed only by the byte it consumed; no bundle is produced. -/
def Obligations.FrameErrorOnlyDropsFrame : Prop :=
  ∀ i (s t : State), exec i s = .next t → t.lastOutput.status = .err →
    ∃ b, i = .byte b ∧ t.nbyte = 0 ∧ t.win = s.win ∧ (s.nbyte ≠ 9 → t.len = s.len) ∧
      t.readByte s.nbyte = b ∧ (∀ a, a ≠ s.nbyte → t.readByte a = s.readByte a) ∧ t.lastOutput.bundle = none

/-- 10_state.md R21, R22, 20_memory.md R34: the frame of BYTE. It stores to the indices that `storedIndices` gives and to no
other; `win` changes only in HUNT, `len` only on the tenth byte of a frame; the capacity, the free values and what the
host has still to present never change. -/
def Obligations.ByteFrame : Prop :=
  ∀ (s t : State) b, exec (.byte b) s = .next t →
    (∀ a, a ∉ s.storedIndices b → t.readByte a = s.readByte a) ∧ (s.nbyte ≠ 0 → t.win = s.win) ∧
    (s.nbyte ≠ 9 → t.len = s.len) ∧ t.buf.size = s.buf.size ∧ t.draws = s.draws ∧ t.input = s.input

/-- 40_sync.md R66: the bytes of a frame do not enter the window, so a return to HUNT leaves it at the sync that opened the
frame. -/
def Obligations.FrameBytesStayOutOfWindow : Prop :=
  ∀ (s t : State) b, s.Inv → 3 ≤ s.nbyte → exec (.byte b) s = .next t →
    t.win = s.win ∧ (t.nbyte = 0 → t.win = ⟨0xAA#8, 0x44#8, 0x12#8⟩)

/-- 41_framer.md R76, 20_memory.md R32: every index a BYTE step stores to is in the buffer, and at most `len + 3` once the
length is known. -/
def Obligations.BufferNeverOverflows : Prop :=
  ∀ (s : State) b a, s.Inv → a ∈ s.storedIndices b → a < s.buf.size ∧ (10 ≤ s.nbyte → a ≤ s.len + 3)

/-- Where BYTE stops (the model's choice, log entry 9): in ACCUMULATE with `nbyte` beyond the buffer, a state that breaks
10_state.md R28 (4). -/
def Obligations.ByteBeyondBufferFaults : Prop :=
  ∀ (s : State) b, s.nbyte ≠ 0 → s.buf.size ≤ s.nbyte → exec (.byte b) s = .fault (.bufferIndex s.nbyte)

/-- 20_memory.md R38, R39: MemRead is little-endian. -/
def Obligations.MemReadIsLittleEndian : Prop :=
  ∀ (s : State) (a : Nat), s.memRead a 1 = (s.readByte a).toNat ∧
    s.memRead a 2 = (s.readByte a).toNat + 256 * (s.readByte (a + 1)).toNat ∧
    s.memRead a 4 = (s.readByte a).toNat + 2 ^ 8 * (s.readByte (a + 1)).toNat +
      2 ^ 16 * (s.readByte (a + 2)).toNat + 2 ^ 24 * (s.readByte (a + 3)).toNat

/-! ## Invariants -/

/-- The reset state meets the invariants (10_state.md R28). -/
def Obligations.ResetMeetsInvariants : Prop := State.reset.Inv

/-- 10_state.md R28: the invariants hold after every step from a state that meets them. -/
def Obligations.EveryStepKeepsInvariants : Prop :=
  ∀ s t : State, s.Inv → step s = .next t → t.Inv

/-- 60_exceptions.md R113, R121: in every state the invariants admit, every transaction completes, and the state after it meets
the invariants; no legal word stalls. -/
def Obligations.BlockNeverSticks : Prop :=
  (∀ i (s : State), s.Inv → ∃ t, exec i s = .next t ∧ t.Inv) ∧
  ∀ (s : State) w ws, s.Inv → s.input = w :: ws → TWord.legal w = true → ∃ t, step s = .next t ∧ t.input = ws

/-- 10_state.md R30: states that agree on what a rule may read, but not on `len` before the length is known or on buffer bytes
the frame has not written, give the same outputs on every transaction sequence. -/
def Obligations.UnspecifiedValuesReachNoOutput : Prop :=
  ∀ (is : List Instr) (s t : State), s.Inv → t.Inv → s.Agrees t →
    ∃ os u v, feed is s = .next (os, u) ∧ feed is t = .next (os, v) ∧ u.Agrees v

/-! ## CRC-32 -/

/-- 42_crc_validator.md R83 and 95_test_vectors.md section 2: the CRC-32 of some byte sequences. -/
def Obligations.CrcVectors : Prop :=
  crc32 [] = 0x00000000#32 ∧
  crc32 [0x31#8, 0x32#8, 0x33#8, 0x34#8, 0x35#8, 0x36#8, 0x37#8, 0x38#8, 0x39#8] = 0x2DFD2D88#32 ∧
  crc32 [0xAA#8, 0x44#8, 0x12#8] = 0xB34323FF#32 ∧
  crc32With 0xFFFFFFFF#32 0xFFFFFFFF#32
    [0x31#8, 0x32#8, 0x33#8, 0x34#8, 0x35#8, 0x36#8, 0x37#8, 0x38#8, 0x39#8] = 0xCBF43926#32

/-- 42_crc_validator.md R84: the table form equals the bitwise form for every input, and the four entries given. -/
def Obligations.CrcTableFormEqualsBitwise : Prop :=
  (∀ init xorOut m, crc32Table init xorOut m = crc32With init xorOut m) ∧
  crcTable 0x01#8 = 0x77073096#32 ∧ crcTable 0x80#8 = 0xEDB88320#32 ∧ crcTable 0xFF#8 = 0x2D02EF8D#32 ∧
  crcTable 0x00#8 = 0x00000000#32 ∧ ∀ b, crc32 [b] = crcTable b

/-- 42_crc_validator.md R92: the trailer is correct exactly when the CRC of the whole frame, trailer included, is zero. -/
def Obligations.CrcResidueIsZero : Prop :=
  ∀ s : State, crc32 (s.bytes (s.len + 4)) = 0#32 ↔ s.memRead s.len 4 = (crc32 (s.bytes s.len)).toNat

/-- 42_crc_validator.md R93: the implementation that updates a CRC register byte by byte restarts it at 0xB34323FF and makes
the same step, with the same output, as the block, on every transaction. -/
def Obligations.IncrementalCrcRefines : Prop :=
  crcAfterSync = 0xB34323FF#32 ∧
  ∀ i (s : IncState), s.base.Inv → s.Tracks →
    ∃ t : IncState, s.exec i = .next t ∧ exec i s.base = .next t.base ∧ t.Tracks

/-! ## Whole frames -/

/-- 41_framer.md R81: a frame that passes the length check, fed from HUNT, occupies exactly its `32 + N` bytes: two hunt bytes,
the sync byte, then one count a byte; only the last byte gives an output other than NONE, and returns the block to HUNT with
the frame in the buffer. -/
def Obligations.FrameOccupiesItsBytes : Prop :=
  ∀ (s : State) f, s.Inv → s.nbyte = 0 → Wire.isFrame f → f.length ≤ s.buf.size →
    (∀ k, k < f.length → ∃ t, feedBytes (f.take k) s = .next (List.replicate k Output.quiet, t) ∧
      t.nbyte = if k < 3 then 0 else k) ∧
    ∃ t o, feedBytes f s = .next (List.replicate (f.length - 1) Output.quiet ++ [o], t) ∧ o.status ≠ .none ∧
      t.nbyte = 0 ∧ t.bytes f.length = f

/-- 70_reset_and_hazards.md R127, 42_crc_validator.md R89: garbage that completes no sync pattern, then a frame that fits with
a correct trailer and a nonzero week: the frame is accepted on its last byte with its bundle, and every other output is
NONE. -/
def Obligations.ValidFrameIsAccepted : Prop :=
  ∀ (s : State) g f, s.Inv → s.nbyte = 0 → ¬ [0xAA#8, 0x44#8, 0x12#8] <:+: s.win.w1 :: s.win.w2 :: g →
    Wire.isFrame f → Wire.bodyLen f ≤ s.buf.size - 32 → Wire.trailerOk f → Wire.week f ≠ 0 →
    ∃ t, feedBytes (g ++ f) s = .next (List.replicate (g.length + f.length - 1) Output.quiet ++
        [⟨.accept, .none, some (Wire.bundle f)⟩], t) ∧ t.nbyte = 0

/-- 42_crc_validator.md R86, R88, R91: a frame that fits but has a wrong trailer gives (ERR, CRC) on its last byte whatever its
week, and one with a correct trailer and a zero week gives (ERR, WEEK). -/
def Obligations.BadFramesAreRejected : Prop :=
  ∀ (s : State) f, s.Inv → s.nbyte = 0 → Wire.isFrame f → f.length ≤ s.buf.size →
    (¬ Wire.trailerOk f → ∃ t, feedBytes f s =
      .next (List.replicate (f.length - 1) Output.quiet ++ [⟨.err, .crc, none⟩], t) ∧ t.nbyte = 0) ∧
    (Wire.trailerOk f → Wire.week f = 0 → ∃ t, feedBytes f s =
      .next (List.replicate (f.length - 1) Output.quiet ++ [⟨.err, .week, none⟩], t) ∧ t.nbyte = 0)

/-- 41_framer.md R80, 70_reset_and_hazards.md R128: a body of more than `MAXRAWLEN - 32` bytes is dropped with (ERR, LEN) on
the frame's tenth byte, and with MAXRAWLEN at least 65567 there is no length error. -/
def Obligations.OversizeFrameIsDropped : Prop :=
  (∀ (s : State) f, s.Inv → s.nbyte = 0 → f.take 3 = [0xAA#8, 0x44#8, 0x12#8] → f.length = 10 →
    s.buf.size - 32 < Wire.bodyLen f →
    ∃ t, feedBytes f s = .next (List.replicate 9 Output.quiet ++ [⟨.err, .len, none⟩], t) ∧ t.nbyte = 0) ∧
  ∀ i (s t : State), 65567 ≤ s.buf.size → exec i s = .next t → t.lastOutput.cause ≠ .len

/-- 42_crc_validator.md R96: a corruption confined to 4 consecutive bytes that leaves the sync bytes and the length bytes
unchanged gives (ERR, CRC) on the frame's last byte. -/
def Obligations.ShortBurstIsDetected : Prop :=
  ∀ (s : State) (f g : List Byte) (k : Nat), s.Inv → s.nbyte = 0 → Wire.isFrame f → Wire.trailerOk f →
    f.length ≤ s.buf.size → g.length = f.length → g ≠ f →
    (∀ i, i < k ∨ k + 4 ≤ i → g[i]? = f[i]?) → (∀ i, i ∈ [0, 1, 2, 8, 9] → g[i]? = f[i]?) →
    ∃ t, feedBytes g s = .next (List.replicate (g.length - 1) Output.quiet ++ [⟨.err, .crc, none⟩], t) ∧ t.nbyte = 0

/-- 30_encoding.md R62, 42_crc_validator.md R88: the block accepts what FRAME builds when it fits and the week is not zero,
and rejects it with (ERR, WEEK) when the week is zero. -/
def Obligations.FramePseudoIsJudgedByWeek : Prop :=
  ∀ (s : State) (a : FrameArgs), s.Inv → s.nbyte = 0 → a.wf = true → 32 + a.body.length ≤ s.buf.size →
    ∃ os t o, feed (expandLine (.frame a)) s = .next (os ++ [o], t) ∧ (∀ p ∈ os, p = Output.quiet) ∧
      if a.week = 0#16 then o = ⟨.err, .week, none⟩
      else o.status = .accept ∧ ∃ f, o.bundle = some f ∧ f.msgId = a.msgId ∧ f.msgType = a.msgType ∧
        f.week = a.week ∧ f.towMs = a.towMs ∧ f.bodyLen.toNat = a.body.length

/-- 70_reset_and_hazards.md R125: after an accepting step the frame stays in the buffer through any NOPs and EOIs and up to
three BYTEs. -/
def Obligations.AcceptedFrameOutlivesThreeBytes : Prop :=
  ∀ i (s t u : State) f (is : List Instr) os, s.Inv → exec i s = .next t → t.lastOutput.bundle = some f →
    .reset ∉ is → (is.countP fun j => decide (j ≠ .nop ∧ j ≠ .eoi)) ≤ 3 → feed is t = .next (os, u) →
    u.bytes f.bytes.length = f.bytes

/-! ## Entry modes and other layouts -/

/-- 43_control.md R101: FILE_STEP answers the first output that is not NONE, having fed exactly the bytes read, or EOF when
the source is exhausted. -/
def Obligations.FileStepAnswersFirstOutput : Prop :=
  ∀ (bs : List Byte) (s : State), s.Inv → ∃ r os, fileStep bs s = .next r ∧ (∀ o ∈ os, o.status = .none) ∧
    r.output.status ≠ .none ∧
    ((∃ read, bs = read ++ r.rest ∧ feedBytes read s = .next (os ++ [r.output], r.state)) ∨
      (r.rest = [] ∧ r.output = ⟨.eof, .none, none⟩ ∧
        feed (bs.map .byte ++ [.eoi]) s = .next (os ++ [r.output], r.state)))

/-- 43_control.md R102: the bulk reads of file mode give the same frames, errors and ends as FILE_STEP. That they leave the
same State as well, the buffer after a read that stops short included, is no part of R102: it is the model's choice, the
DESIGN CHOICE of log entry 14. -/
def Obligations.BulkReadsEqualFileStep : Prop :=
  ∀ (bs : List Byte) (s : State), s.Inv → s.nbyte = 0 → fileStepBulk bs s = fileStep bs s

/-- 40_sync.md R72: keeping the window in `buf[0..2]` gives the same output on every transaction, and states that correspond
stay so. -/
def Obligations.SharedWindowLayoutRefines : Prop :=
  ∀ i (s t : State), s.SharesWindow t →
    ∃ s' t', exec i s = .next s' ∧ sharedExec i t = .next t' ∧ t'.out = s'.out ∧ s'.SharesWindow t'
end

