-- ==== Sys2Proof/Laws/Assembler.lean ====
section
/-! SUPPORT. What the assembler does with digits and with ill-formed lines. -/

namespace Sys2Proof.Machine

/-- A digit reads back as the number it writes, in either case. -/
theorem hexDigit_digitChar : ∀ n < 16, hexDigit (digitChar n) = some n ∧ hexDigit (lowerDigitChar n) = some n := by
  decide

/-- A FRAME that R62 gives no expansion is refused where its text is read (log entry 13). -/
theorem checkedFrame_of_ill_formed {a : FrameArgs} (h : a.wf = false) : checkedFrame a = none := by
  simp [checkedFrame, h]

theorem checkedFrame_of_wf {a : FrameArgs} (h : a.wf = true) : checkedFrame a = some a := by
  simp [checkedFrame, h]

/-- A program with an ill-formed line has no words (log entry 13). -/
theorem assemble_of_ill_formed {p : List Line} {l : Line} (hl : l ∈ p) (h : l.wf = false) : assemble p = none := by
  have : p.all Line.wf = false := List.all_eq_false.2 ⟨l, hl, by simp [h]⟩
  simp [assemble, this]

theorem assemble_of_wf {p : List Line} (h : p.all Line.wf = true) :
    assemble p = some ((p.flatMap expandLine).map encode) := by
  simp [assemble, h]

end Sys2Proof.Machine
end

