-- ==== Sys2Proof/Laws/Memory.lean ====
section
/-! SUPPORT. The buffer's cells: a read after a write, and the canonical form that every write keeps. -/

namespace Sys2Proof.Machine

@[simp] theorem Memory.lookup_nil (i : Nat) : Memory.lookup [] i = none := rfl

theorem Memory.lookup_store_same (m : List Host.Cell) (i : Nat) (v : Byte) :
    Memory.lookup (Memory.store m i v) i = some v := by
  induction m with
  | nil => simp [Memory.store, Memory.lookup]
  | cons c m ih =>
    obtain ⟨a, w⟩ := c
    by_cases h₁ : i < a
    · simp [Memory.store, Memory.lookup, h₁]
    · by_cases h₂ : i = a
      · simp [Memory.store, Memory.lookup, h₂]
      · simp [Memory.store, Memory.lookup, h₁, h₂, ih]

theorem Memory.lookup_store_of_ne (m : List Host.Cell) {i j : Nat} (v : Byte) (h : j ≠ i) :
    Memory.lookup (Memory.store m i v) j = Memory.lookup m j := by
  induction m with
  | nil => simp [Memory.store, Memory.lookup, h]
  | cons c m ih =>
    obtain ⟨a, w⟩ := c
    by_cases h₁ : i < a
    · simp [Memory.store, Memory.lookup, h₁, h]
    · by_cases h₂ : i = a
      · subst h₂; simp [Memory.store, Memory.lookup, h]
      · simp [Memory.store, Memory.lookup, h₁, h₂, ih]

/-- A write changes the byte it writes and no other. -/
theorem Memory.lookup_store (m : List Host.Cell) (i j : Nat) (v : Byte) :
    Memory.lookup (Memory.store m i v) j = if j = i then some v else Memory.lookup m j := by
  by_cases h : j = i
  · subst h; simp [Memory.lookup_store_same]
  · simp [Memory.lookup_store_of_ne m v h, h]

/-- A cell after a write is the one written or was there before. -/
theorem Memory.mem_store {m : List Host.Cell} {i : Nat} {v : Byte} {c : Host.Cell} (h : c ∈ Memory.store m i v) :
    c = (i, v) ∨ c ∈ m := by
  induction m with
  | nil => simpa [Memory.store] using h
  | cons d m ih =>
    obtain ⟨a, w⟩ := d
    simp only [Memory.store] at h
    split at h
    · simpa using h
    · split at h
      · rcases List.mem_cons.1 h with h | h
        · exact .inl h
        · exact .inr (List.mem_cons_of_mem _ h)
      · rcases List.mem_cons.1 h with h | h
        · exact .inr (by simp [h])
        · exact (ih h).imp_right (List.mem_cons_of_mem _)

theorem Memory.wf_nil (size : Nat) : Memory.wf size [] := ⟨List.Pairwise.nil, by simp⟩

/-- A write inside the buffer keeps the canonical form. -/
theorem Memory.wf_store {size i : Nat} {m : List Host.Cell} (v : Byte) (hw : Memory.wf size m) (hi : i < size) :
    Memory.wf size (Memory.store m i v) := by
  refine ⟨?_, fun c hc => ?_⟩
  · induction m with
    | nil => simp [Memory.store]
    | cons d m ih =>
      obtain ⟨a, w⟩ := d
      have hp := List.pairwise_cons.1 hw.1
      have ih := ih ⟨hp.2, fun c hc => hw.2 c (List.mem_cons_of_mem _ hc)⟩
      simp only [Memory.store]
      split
      · rename_i hia
        refine List.pairwise_cons.2 ⟨fun c hc => ?_, hw.1⟩
        rcases List.mem_cons.1 hc with rfl | hc
        · exact hia
        · exact lt_trans hia (hp.1 c hc)
      · split
        · rename_i hia
          subst hia
          exact List.pairwise_cons.2 ⟨hp.1, hp.2⟩
        · refine List.pairwise_cons.2 ⟨fun c hc => ?_, ih⟩
          rcases Memory.mem_store hc with rfl | hc
          · simp only; omega
          · exact hp.1 c hc
  · rcases Memory.mem_store hc with rfl | hc
    · exact hi
    · exact hw.2 c hc

end Sys2Proof.Machine
end

