-- ==== Sys2Proof/Laws/State.lean ====
section
/-! SUPPORT. What each update of the state leaves in each field, one lemma per field per update, true by rfl. -/

namespace Sys2Proof.Machine

/-! ## setNbyte -/

@[simp] theorem State.setNbyte_nbyte (s : State) (n : Nat) : (s.setNbyte n).nbyte = n := rfl

@[simp] theorem State.setNbyte_len (s : State) (n : Nat) : (s.setNbyte n).len = s.len := rfl

@[simp] theorem State.setNbyte_win (s : State) (n : Nat) : (s.setNbyte n).win = s.win := rfl

@[simp] theorem State.setNbyte_buf (s : State) (n : Nat) : (s.setNbyte n).buf = s.buf := rfl

@[simp] theorem State.setNbyte_draws (s : State) (n : Nat) : (s.setNbyte n).draws = s.draws := rfl

@[simp] theorem State.setNbyte_input (s : State) (n : Nat) : (s.setNbyte n).input = s.input := rfl

@[simp] theorem State.setNbyte_out (s : State) (n : Nat) : (s.setNbyte n).out = s.out := rfl

/-! ## setLen -/

@[simp] theorem State.setLen_nbyte (s : State) (n : Nat) : (s.setLen n).nbyte = s.nbyte := rfl

@[simp] theorem State.setLen_len (s : State) (n : Nat) : (s.setLen n).len = n := rfl

@[simp] theorem State.setLen_win (s : State) (n : Nat) : (s.setLen n).win = s.win := rfl

@[simp] theorem State.setLen_buf (s : State) (n : Nat) : (s.setLen n).buf = s.buf := rfl

@[simp] theorem State.setLen_draws (s : State) (n : Nat) : (s.setLen n).draws = s.draws := rfl

@[simp] theorem State.setLen_input (s : State) (n : Nat) : (s.setLen n).input = s.input := rfl

@[simp] theorem State.setLen_out (s : State) (n : Nat) : (s.setLen n).out = s.out := rfl

/-! ## setWin -/

@[simp] theorem State.setWin_nbyte (s : State) (w : Window) : (s.setWin w).nbyte = s.nbyte := rfl

@[simp] theorem State.setWin_len (s : State) (w : Window) : (s.setWin w).len = s.len := rfl

@[simp] theorem State.setWin_win (s : State) (w : Window) : (s.setWin w).win = w := rfl

@[simp] theorem State.setWin_buf (s : State) (w : Window) : (s.setWin w).buf = s.buf := rfl

@[simp] theorem State.setWin_draws (s : State) (w : Window) : (s.setWin w).draws = s.draws := rfl

@[simp] theorem State.setWin_input (s : State) (w : Window) : (s.setWin w).input = s.input := rfl

@[simp] theorem State.setWin_out (s : State) (w : Window) : (s.setWin w).out = s.out := rfl

/-! ## emit -/

@[simp] theorem State.emit_nbyte (s : State) (o : Output) : (s.emit o).nbyte = s.nbyte := rfl

@[simp] theorem State.emit_len (s : State) (o : Output) : (s.emit o).len = s.len := rfl

@[simp] theorem State.emit_win (s : State) (o : Output) : (s.emit o).win = s.win := rfl

@[simp] theorem State.emit_buf (s : State) (o : Output) : (s.emit o).buf = s.buf := rfl

@[simp] theorem State.emit_draws (s : State) (o : Output) : (s.emit o).draws = s.draws := rfl

@[simp] theorem State.emit_input (s : State) (o : Output) : (s.emit o).input = s.input := rfl

@[simp] theorem State.emit_out (s : State) (o : Output) : (s.emit o).out = some o := rfl

/-! ## takeInput -/

@[simp] theorem State.takeInput_nbyte (s : State) : (s.takeInput).nbyte = s.nbyte := rfl

@[simp] theorem State.takeInput_len (s : State) : (s.takeInput).len = s.len := rfl

@[simp] theorem State.takeInput_win (s : State) : (s.takeInput).win = s.win := rfl

@[simp] theorem State.takeInput_buf (s : State) : (s.takeInput).buf = s.buf := rfl

@[simp] theorem State.takeInput_draws (s : State) : (s.takeInput).draws = s.draws := rfl

@[simp] theorem State.takeInput_input (s : State) : (s.takeInput).input = s.input.tail := rfl

@[simp] theorem State.takeInput_out (s : State) : (s.takeInput).out = s.out := rfl

/-! ## present -/

@[simp] theorem State.present_nbyte (s : State) (w : TWord) : (s.present w).nbyte = s.nbyte := rfl

@[simp] theorem State.present_len (s : State) (w : TWord) : (s.present w).len = s.len := rfl

@[simp] theorem State.present_win (s : State) (w : TWord) : (s.present w).win = s.win := rfl

@[simp] theorem State.present_buf (s : State) (w : TWord) : (s.present w).buf = s.buf := rfl

@[simp] theorem State.present_draws (s : State) (w : TWord) : (s.present w).draws = s.draws := rfl

@[simp] theorem State.present_input (s : State) (w : TWord) : (s.present w).input = w :: s.input := rfl

@[simp] theorem State.present_out (s : State) (w : TWord) : (s.present w).out = s.out := rfl

/-! ## writeByte -/

@[simp] theorem State.writeByte_nbyte (s : State) (i : Nat) (v : Byte) : (s.writeByte i v).nbyte = s.nbyte := rfl

@[simp] theorem State.writeByte_len (s : State) (i : Nat) (v : Byte) : (s.writeByte i v).len = s.len := rfl

@[simp] theorem State.writeByte_win (s : State) (i : Nat) (v : Byte) : (s.writeByte i v).win = s.win := rfl

@[simp] theorem State.writeByte_buf_size (s : State) (i : Nat) (v : Byte) : (s.writeByte i v).buf.size = s.buf.size := rfl

@[simp] theorem State.writeByte_buf_cells (s : State) (i : Nat) (v : Byte) :
    (s.writeByte i v).buf.cells = Memory.store s.buf.cells i v := rfl

@[simp] theorem State.writeByte_draws (s : State) (i : Nat) (v : Byte) : (s.writeByte i v).draws = s.draws := rfl

@[simp] theorem State.writeByte_input (s : State) (i : Nat) (v : Byte) : (s.writeByte i v).input = s.input := rfl

@[simp] theorem State.writeByte_out (s : State) (i : Nat) (v : Byte) : (s.writeByte i v).out = s.out := rfl

/-! ## forgetFrame -/

@[simp] theorem State.forgetFrame_nbyte (s : State) : (s.forgetFrame).nbyte = s.nbyte := rfl

@[simp] theorem State.forgetFrame_len (s : State) : (s.forgetFrame).len = Config.freeLen (s.draws + 1) := rfl

@[simp] theorem State.forgetFrame_win (s : State) : (s.forgetFrame).win = s.win := rfl

@[simp] theorem State.forgetFrame_buf (s : State) : (s.forgetFrame).buf = ⟨s.buf.size, []⟩ := rfl

@[simp] theorem State.forgetFrame_draws (s : State) : (s.forgetFrame).draws = s.draws + 1 := rfl

@[simp] theorem State.forgetFrame_input (s : State) : (s.forgetFrame).input = s.input := rfl

@[simp] theorem State.forgetFrame_out (s : State) : (s.forgetFrame).out = s.out := rfl

/-! ## What a read of the buffer sees after an update of another part -/

@[simp] theorem State.readByte_setNbyte (s : State) (n i : Nat) :
    (s.setNbyte n).readByte i = s.readByte i := rfl

@[simp] theorem State.readByte_setLen (s : State) (n i : Nat) :
    (s.setLen n).readByte i = s.readByte i := rfl

@[simp] theorem State.readByte_setWin (s : State) (w : Window) (i : Nat) :
    (s.setWin w).readByte i = s.readByte i := rfl

@[simp] theorem State.readByte_emit (s : State) (o : Output) (i : Nat) :
    (s.emit o).readByte i = s.readByte i := rfl

@[simp] theorem State.readByte_takeInput (s : State) (i : Nat) :
    (s.takeInput).readByte i = s.readByte i := rfl

@[simp] theorem State.readByte_present (s : State) (w : TWord) (i : Nat) :
    (s.present w).readByte i = s.readByte i := rfl

/-! ## Windows -/

@[simp] theorem Window.shift_w0 (w : Window) (b : Byte) : (w.shift b).w0 = w.w1 := rfl

@[simp] theorem Window.shift_w1 (w : Window) (b : Byte) : (w.shift b).w1 = w.w2 := rfl

@[simp] theorem Window.shift_w2 (w : Window) (b : Byte) : (w.shift b).w2 = b := rfl

end Sys2Proof.Machine
end

