-- ==== Sys2Proof/Laws/Ops.lean ====
section
/-! SUPPORT. What the shared operations do: reads after writes, the stores of BYTE, the frame error, and each rule of
BYTE once, so that no later proof unfolds them. -/

namespace Sys2Proof.Machine

/-! ## Reads of the buffer -/

/-- A byte read after a one-byte write. -/
@[simp] theorem State.readByte_writeByte (s : State) (i j : Nat) (v : Byte) :
    (s.writeByte i v).readByte j = if j = i then v else s.readByte j := by
  by_cases h : j = i <;> simp [State.readByte, Memory.lookup_store, h]

/-- MemRead depends on the bytes it reads and on nothing else. -/
theorem State.memRead_congr {s t : State} {a : Nat} (n : Nat)
    (h : ∀ k, k < n → s.readByte (a + k) = t.readByte (a + k)) : s.memRead a n = t.memRead a n := by
  induction n with
  | zero => rfl
  | succ n ih => simp [State.memRead, ih fun k hk => h k (by omega), h n (by omega)]

/-- An n-byte read is below 2^(8n). -/
theorem State.memRead_lt (s : State) (a n : Nat) : s.memRead a n < 2 ^ (8 * n) := by
  induction n with
  | zero => simp [State.memRead]
  | succ n ih =>
    have hb : (s.readByte (a + n)).toNat ≤ 255 := by have := (s.readByte (a + n)).isLt; omega
    have hm : (s.readByte (a + n)).toNat * 2 ^ (8 * n) ≤ 255 * 2 ^ (8 * n) := Nat.mul_le_mul_right _ hb
    have hp : 2 ^ (8 * (n + 1)) = 256 * 2 ^ (8 * n) := by rw [Nat.mul_add, pow_add]; ring
    simp only [State.memRead]
    omega

/-- A two-byte read (20_memory.md R38). -/
theorem State.memRead_two (s : State) (a : Nat) :
    s.memRead a 2 = (s.readByte a).toNat + 256 * (s.readByte (a + 1)).toNat := by
  simp [State.memRead]; ring

@[simp] theorem State.memRead_setNbyte (s : State) (n a k : Nat) : (s.setNbyte n).memRead a k = s.memRead a k :=
  State.memRead_congr k fun _ _ => rfl

@[simp] theorem State.memRead_setLen (s : State) (n a k : Nat) : (s.setLen n).memRead a k = s.memRead a k :=
  State.memRead_congr k fun _ _ => rfl

@[simp] theorem State.memRead_setWin (s : State) (w : Window) (a k : Nat) :
    (s.setWin w).memRead a k = s.memRead a k :=
  State.memRead_congr k fun _ _ => rfl

@[simp] theorem State.memRead_emit (s : State) (o : Output) (a k : Nat) :
    (s.emit o).memRead a k = s.memRead a k :=
  State.memRead_congr k fun _ _ => rfl

@[simp] theorem State.bytes_length (s : State) (n : Nat) : (s.bytes n).length = n := by simp [State.bytes]

/-- The first n bytes depend on those bytes and on nothing else. -/
theorem State.bytes_congr {s t : State} {n : Nat} (h : ∀ i, i < n → s.readByte i = t.readByte i) :
    s.bytes n = t.bytes n :=
  List.map_congr_left fun i hi => h i (List.mem_range.1 hi)

/-- One byte more at the end. -/
theorem State.bytes_succ (s : State) (n : Nat) : s.bytes (n + 1) = s.bytes n ++ [s.readByte n] := by
  simp [State.bytes, List.range_succ]

@[simp] theorem State.lastOutput_emit (s : State) (o : Output) : (s.emit o).lastOutput = o := rfl

/-! ## The frame error -/

/-- Raising a frame error drops the frame and outputs (ERR, c); nothing else changes (60_exceptions.md R110). -/
theorem State.raiseFrameError_eq (s : State) (c : Cause) :
    s.raiseFrameError c = { s with nbyte := 0, out := some (Output.error c) } := rfl

/-! ## The stores of BYTE -/

@[simp] theorem State.openFrame_nbyte (s : State) : s.openFrame.nbyte = 3 := rfl

@[simp] theorem State.openFrame_len (s : State) : s.openFrame.len = s.len := rfl

@[simp] theorem State.openFrame_win (s : State) : s.openFrame.win = s.win := rfl

@[simp] theorem State.openFrame_size (s : State) : s.openFrame.buf.size = s.buf.size := rfl

@[simp] theorem State.openFrame_draws (s : State) : s.openFrame.draws = s.draws := rfl

@[simp] theorem State.openFrame_input (s : State) : s.openFrame.input = s.input := rfl

theorem State.readByte_openFrame (s : State) (i : Nat) :
    s.openFrame.readByte i = if i = 2 then sync2 else if i = 1 then sync1 else if i = 0 then sync0 else s.readByte i := by
  simp [State.openFrame]

@[simp] theorem State.storeNext_nbyte (s : State) (b : Byte) : (s.storeNext b).nbyte = s.nbyte + 1 := rfl

@[simp] theorem State.storeNext_len (s : State) (b : Byte) : (s.storeNext b).len = s.len := rfl

@[simp] theorem State.storeNext_win (s : State) (b : Byte) : (s.storeNext b).win = s.win := rfl

@[simp] theorem State.storeNext_size (s : State) (b : Byte) : (s.storeNext b).buf.size = s.buf.size := rfl

@[simp] theorem State.storeNext_cells (s : State) (b : Byte) :
    (s.storeNext b).buf.cells = Memory.store s.buf.cells s.nbyte b := rfl

@[simp] theorem State.storeNext_draws (s : State) (b : Byte) : (s.storeNext b).draws = s.draws := rfl

@[simp] theorem State.storeNext_input (s : State) (b : Byte) : (s.storeNext b).input = s.input := rfl

@[simp] theorem State.readByte_storeNext (s : State) (b : Byte) (i : Nat) :
    (s.storeNext b).readByte i = if i = s.nbyte then b else s.readByte i := by
  simp [State.storeNext]

/-! ## The rules of BYTE, each said once -/

/-- Validate() has three outcomes (42_crc_validator.md R85, R91). -/
theorem State.validateWith_cases (computed : Crc) (s : State) :
    (computed ≠ s.trailer ∧ s.validateWith computed = s.raiseFrameError .crc) ∨
    (computed = s.trailer ∧ s.week = 0#16 ∧ s.validateWith computed = s.raiseFrameError .week) ∨
    (computed = s.trailer ∧ s.week ≠ 0#16 ∧ s.validateWith computed = s.emit (Output.accepted s.frameBundle)) := by
  by_cases h₁ : computed = s.trailer
  · by_cases h₂ : s.week = 0#16
    · exact .inr (.inl ⟨h₁, h₂, by simp [State.validateWith, h₁, h₂]⟩)
    · exact .inr (.inr ⟨h₁, h₂, by simp [State.validateWith, h₁, h₂]⟩)
  · exact .inl ⟨h₁, by simp [State.validateWith, h₁]⟩

/-- A hunt byte completes the sync pattern and opens a frame, or only enters the window (40_sync.md R63). -/
theorem State.hunt_cases (s : State) (b : Byte) :
    (s.win.shift b = Window.sync ∧ s.hunt b = ((s.setWin (s.win.shift b)).openFrame).emit Output.quiet) ∨
    (s.win.shift b ≠ Window.sync ∧ s.hunt b = (s.setWin (s.win.shift b)).emit Output.quiet) := by
  by_cases h : s.win.shift b = Window.sync
  · exact .inl ⟨h, by simp [State.hunt, State.completesSync, h]⟩
  · exact .inr ⟨h, by simp [State.hunt, State.completesSync, h]⟩

/-- The window holds the sync pattern after the shift exactly when the two bytes before were 0xAA, 0x44 and the new one is
0x12 (40_sync.md R65). -/
theorem Window.shift_eq_sync {w : Window} {b : Byte} :
    w.shift b = Window.sync ↔ w.w1 = sync0 ∧ w.w2 = sync1 ∧ b = sync2 := by
  simp [Window.shift, Window.sync]

/-- What an ACCUMULATE step does after its store, by the new value of `nbyte` (41_framer.md R73). -/
theorem State.afterStoreWith_cases (verdict : State → State) (s : State) :
    (s.nbyte < 10 ∧ s.afterStoreWith verdict = s.emit Output.quiet) ∨
    (s.nbyte = 10 ∧ s.buf.size - 4 < 28 + s.memRead 8 2 ∧
      s.afterStoreWith verdict = s.readLength.raiseFrameError .len) ∨
    (s.nbyte = 10 ∧ 28 + s.memRead 8 2 ≤ s.buf.size - 4 ∧
      s.afterStoreWith verdict = s.readLength.emit Output.quiet) ∨
    (10 < s.nbyte ∧ s.nbyte < s.len + 4 ∧ s.afterStoreWith verdict = s.emit Output.quiet) ∨
    (10 < s.nbyte ∧ s.len + 4 ≤ s.nbyte ∧ s.afterStoreWith verdict = verdict (s.setNbyte 0)) := by
  rcases lt_trichotomy s.nbyte 10 with h | h | h
  · exact .inl ⟨h, by simp [State.afterStoreWith, State.completeWith, State.incomplete, h, h.ne]⟩
  · by_cases h₂ : s.buf.size - 4 < 28 + s.memRead 8 2
    · exact .inr (.inl ⟨h, h₂, by
        simp [State.afterStoreWith, State.readLength, State.tooLarge, headerLen, trailerLen, h, h₂]⟩)
    · refine .inr (.inr (.inl ⟨h, by omega, ?_⟩))
      have h₃ : (10 : Nat) < 28 + s.memRead 8 2 + 4 := by omega
      simp [State.afterStoreWith, State.readLength, State.tooLarge, State.completeWith, State.incomplete, headerLen,
        trailerLen, h, h₂, h₃]
  · have h₁ : ¬ s.nbyte < 10 := by omega
    have h₂ : s.nbyte ≠ 10 := by omega
    by_cases h₃ : s.nbyte < s.len + 4
    · exact .inr (.inr (.inr (.inl ⟨h, h₃, by
        simp [State.afterStoreWith, State.completeWith, State.incomplete, trailerLen, h₂, h₃]⟩)))
    · exact .inr (.inr (.inr (.inr ⟨h, by omega, by
        simp [State.afterStoreWith, State.completeWith, State.incomplete, trailerLen, h₁, h₂, h₃]⟩)))

/-- BYTE answers the sync search in HUNT, the framer's step in ACCUMULATE, or a fault where the index is not in the
buffer (40_sync.md R63, 41_framer.md R73). -/
theorem execByte_cases (b : Byte) (s : State) :
    (s.nbyte = 0 ∧ execByte b s = .next (s.hunt b)) ∨
    (s.nbyte ≠ 0 ∧ s.nbyte < s.buf.size ∧ execByte b s = .next (s.storeNext b).afterStore) ∨
    (s.nbyte ≠ 0 ∧ s.buf.size ≤ s.nbyte ∧ execByte b s = .fault (.bufferIndex s.nbyte)) := by
  by_cases h : s.nbyte = 0
  · exact .inl ⟨h, by simp [execByte, h]⟩
  · by_cases h₂ : s.nbyte < s.buf.size
    · exact .inr (.inl ⟨h, h₂, by simp [execByte, State.accumulate, h, h₂]⟩)
    · exact .inr (.inr ⟨h, by omega, by simp [execByte, State.accumulate, h, h₂]⟩)

end Sys2Proof.Machine
end

