-- ==== Sys2Proof/Laws/PerInstr.lean ====
section
/-! SUPPORT. Per-instruction families of laws about the instruction as syntax. -/

/-- The encoding of an instruction is no reserved word (30_encoding.md R53, R55) and fits its row of opcode_table.json. -/
def Sys2Proof.Laws.EncodingFitsRow.Statement (i : Sys2Proof.Instr) : Prop :=
  Sys2Proof.TWord.legal (Sys2Proof.encode i) = true ∧
    ∃ r ∈ Sys2Proof.opcodeTable, r.mnemonic = i.mnemonic ∧ r.fits (Sys2Proof.encode i) = true

theorem Sys2Proof.Laws.EncodingFitsRow.nop : Sys2Proof.Laws.EncodingFitsRow.Statement .nop := by
  refine ⟨by decide, ⟨"NOP", 0x000#10, 0x3FF#10⟩, by simp [Sys2Proof.opcodeTable], rfl, by decide⟩

theorem Sys2Proof.Laws.EncodingFitsRow.byte (b : Sys2Proof.Byte) :
    Sys2Proof.Laws.EncodingFitsRow.Statement (.byte b) := by
  refine ⟨?_, ⟨"BYTE", 0x100#10, 0x300#10⟩, by simp [Sys2Proof.opcodeTable], rfl, ?_⟩ <;> (revert b; decide)

theorem Sys2Proof.Laws.EncodingFitsRow.eoi : Sys2Proof.Laws.EncodingFitsRow.Statement .eoi := by
  refine ⟨by decide, ⟨"EOI", 0x200#10, 0x3FF#10⟩, by simp [Sys2Proof.opcodeTable], rfl, by decide⟩

theorem Sys2Proof.Laws.EncodingFitsRow.reset : Sys2Proof.Laws.EncodingFitsRow.Statement .reset := by
  refine ⟨by decide, ⟨"RESET", 0x300#10, 0x3FF#10⟩, by simp [Sys2Proof.opcodeTable], rfl, by decide⟩
end

