-- ==== Sys2Proof/Laws/Step.lean ====
section
/-! SUPPORT. The arms of exec, what a step can do, and how transaction sequences compose. -/

namespace Sys2Proof.Machine

theorem exec_nop (s : State) : exec .nop s = .next (s.emit Output.quiet) := rfl

theorem exec_byte (b : Byte) (s : State) : exec (.byte b) s = execByte b s := rfl

theorem exec_eoi (s : State) :
    exec .eoi s = .next (((s.setNbyte 0).setWin Window.cleared).emit Output.endOfFile) := rfl

theorem exec_reset (s : State) :
    exec .reset s = .next (((s.forgetFrame.setNbyte 0).setWin Window.cleared).emit Output.quiet) := rfl

/-- A transaction is never refused: only a reserved word is (30_encoding.md R55). -/
theorem exec_ne_refused (i : Instr) (s : State) (r : Refusal) : exec i s ≠ .refused r := by
  cases i with
  | byte b =>
    rcases execByte_cases b s with ⟨-, h⟩ | ⟨-, -, h⟩ | ⟨-, -, h⟩ <;> simp [exec_byte, h]
  | _ => simp [exec, execNop, execEoi, execReset]

/-- A step runs the decoded word or refuses a reserved one (00_scope.md R15, 30_encoding.md R55). -/
theorem step_cases (s : State) :
    (∃ i, decode s.nextWord = .ok i ∧ step s = exec i s.takeInput) ∨
    (∃ w, decode s.nextWord = .error (.reserved w) ∧ step s = .refused (.reservedWord w)) := by
  unfold step
  split
  · exact .inl ⟨_, ‹_›, rfl⟩
  · exact .inr ⟨_, ‹_›, rfl⟩

/-- Feeding one transaction, then the rest. -/
theorem feed_cons {i : Instr} {is : List Instr} {s t u : State} {os : List Output} (h : exec i s = .next t)
    (hr : feed is t = .next (os, u)) : feed (i :: is) s = .next (t.lastOutput :: os, u) := by
  simp [feed, h, hr]

/-- Feeding a sequence in two parts: what the first answers, then what the second answers from there. -/
theorem feed_append {is js : List Instr} {s t : State} {os : List Output} (h : feed is s = .next (os, t)) :
    feed (is ++ js) s = match feed js t with
      | .next (ps, u) => .next (os ++ ps, u)
      | .fault r => .fault r
      | .refused r => .refused r := by
  induction is generalizing s os with
  | nil =>
    simp only [feed, Host.Outcome.next.injEq, Prod.mk.injEq] at h
    obtain ⟨rfl, rfl⟩ := h
    cases hj : feed js s <;> simp [hj]
  | cons i is ih =>
    simp only [feed] at h
    cases he : exec i s with
    | next v =>
      rw [he] at h
      cases hf : feed is v with
      | next p =>
        obtain ⟨os', u⟩ := p
        simp only [hf, Host.Outcome.next.injEq, Prod.mk.injEq] at h
        obtain ⟨rfl, rfl⟩ := h
        simp only [List.cons_append, feed, he, ih hf]
        cases feed js u <;> simp
      | fault r => simp [hf] at h
      | refused r => simp [hf] at h
    | fault r => simp [he] at h
    | refused r => simp [he] at h

end Sys2Proof.Machine
end

