-- ==== Sys2Proof/Tests/Slice0.lean ====
section
/-! SUPPORT. Small tests: well-formedness refusals, decoding of words written out from 30_encoding.md R53, one-step tests
with results from 95_test_vectors.md, and for each statement with hypotheses a state that meets them. -/

namespace Sys2Proof.Machine.Tests

/-! ## Well-formedness: an ill-formed term for each check -/

theorem test_legal_refuses_reserved : TWord.legal 0x001#10 = false ∧ TWord.legal 0x2FF#10 = false := by decide
theorem test_legal_admits : TWord.legal 0x1FF#10 = true ∧ TWord.legal 0x300#10 = true := by decide
theorem test_capacity_refuses_31 : legalCapacity 31 = false ∧ legalCapacity 32 = true := by decide

/-- A FRAME whose body is one byte longer than a u16 can say (30_encoding.md R62). -/
theorem test_frame_body_too_long :
    (Line.frame ⟨1#16, 0#2, 1#16, 0#32, List.replicate 65536 0#8⟩).wf = false := by
  simp only [Line.wf, FrameArgs.wf, List.length_replicate]; decide

/-! ## Decoding: the words of 30_encoding.md R53 and of program P1 (95_test_vectors.md) -/

theorem test_decode_nop : decode 0b0000000000#10 = .ok .nop := by decide
theorem test_decode_byte_aa : decode 0b0110101010#10 = .ok (.byte 0xAA#8) := by decide
theorem test_decode_byte_c6 : decode 0x1C6#10 = .ok (.byte 0xC6#8) := by decide
theorem test_decode_eoi : decode 0b1000000000#10 = .ok .eoi := by decide
theorem test_decode_reset : decode 0b1100000000#10 = .ok .reset := by decide
theorem test_decode_reserved : decode 0b1000000001#10 = .error (.reserved 0x201#10) := by decide

/-- No two rows of the opcode table fit one word: where both masks ask, the patterns differ. -/
theorem test_table_rows_disjoint :
    opcodeTable.Pairwise fun r q => r.pattern &&& q.mask &&& r.mask ≠ q.pattern &&& r.mask := by decide

theorem test_table_word : decodeTableWord 16 0x1C6 = some (.byte 0xC6#8) ∧ decodeTableWord 16 0x300 = some .reset ∧
    decodeTableWord 16 0x301 = none ∧ decodeTableWord 16 0x400 = none := by decide

/-- A word placed for the next step runs as the first transaction after reset. -/
theorem test_first_step_runs_byte :
    step (State.reset.withFetchWord 16 0x1AA) = exec (.byte 0xAA#8) State.reset := rfl

theorem test_first_step_runs_reset : step (State.reset.withFetchWord 16 0x300) = exec .reset State.reset := rfl

/-! ## The assembler (30_encoding.md R60 to R62) -/

theorem test_parse_line :
    parseLine ['B', 'Y', 'T', 'E', ' ', '0', 'x', 'C', '6', ' ', ';', 'x'] = some [.plain (.byte 0xC6#8)] := by decide

theorem test_assemble : assemble [.plain .nop, .bytes [0xAA#8, 0x44#8], .plain .eoi, .plain .reset] =
    some [0x000#10, 0x1AA#10, 0x144#10, 0x200#10, 0x300#10] := by decide

/-- Both cases of the digits, and the characters on either side of them. -/
theorem test_hex_digits :
    ['0', '9', 'A', 'F', 'a', 'f', '/', ':', '@', 'G', '`', 'g'].map hexDigit =
      [some 0, some 9, some 10, some 15, some 10, some 15, none, none, none, none, none, none] := by decide

/-- The text of a FRAME with a one-byte body (30_encoding.md R62). -/
theorem test_parse_frame :
    parseLine "FRAME id=0x0001 type=3 week=2000 tow=0 body=0a".toList =
      some [.frame ⟨1#16, 3#2, 2000#16, 0#32, [0x0A#8]⟩] := by decide +kernel

/-- The written forms of a FRAME body: against `body=`, after white space, and empty (log entry 13). -/
theorem test_frame_body_forms :
    frameBody ['b', 'o', 'd', 'y', '=', '0', '1'] [['0', '2']] = some [0x01#8, 0x02#8] ∧
    frameBody ['b', 'o', 'd', 'y', '='] [['0', '1'], ['0', '2']] = some [0x01#8, 0x02#8] ∧
    frameBody ['b', 'o', 'd', 'y', '='] [] = some [] := by decide

/-- A FRAME body one byte too long is refused by the parser's check and by the assembler (log entry 13). -/
theorem test_frame_too_long_refused :
    checkedFrame ⟨1#16, 0#2, 1#16, 0#32, List.replicate 65536 0#8⟩ = none ∧
    assemble [.frame ⟨1#16, 0#2, 1#16, 0#32, List.replicate 65536 0#8⟩] = none :=
  ⟨checkedFrame_of_ill_formed test_frame_body_too_long,
    assemble_of_ill_formed (List.mem_singleton.2 rfl) test_frame_body_too_long⟩

/-! ## States for the one-step tests -/

/-- The frame F0 of 95_test_vectors.md, with the week given. -/
def frameF0 (weekLow weekHigh t0 t1 t2 t3 : Byte) : List Byte :=
  [0xAA#8, 0x44#8, 0x12#8, 0x00#8, 0x01#8] ++ List.replicate 9 0x00#8 ++ [weekLow, weekHigh] ++
    List.replicate 12 0x00#8 ++ [t0, t1, t2, t3]

/-- F0: week 2000. -/
def f0 : List Byte := frameF0 0xD0#8 0x07#8 0xB5#8 0xA8#8 0x51#8 0xC6#8

/-- Fz: week 0. -/
def fz : List Byte := frameF0 0x00#8 0x00#8 0x92#8 0x8A#8 0x5A#8 0x1F#8

/-- HUNT with a window, in a buffer of `size` bytes. -/
def hunting (size : Nat) (w : Window) : State := { State.reset with win := w, buf := ⟨size, []⟩ }

/-- The first `n` bytes of a frame held, `len` 28, in a buffer of `size` bytes. -/
def holding (size : Nat) (f : List Byte) (n : Nat) : State :=
  { State.reset with
    nbyte := n
    len := 28
    win := Window.sync
    buf := ⟨size, (List.range n).zip (f.take n)⟩ }

/-- The output of the next state, if there is one. -/
def outputOf (o : Host.Outcome State Fault Refusal) : Option Output :=
  match o with
  | .next t => t.out
  | _ => none

/-- `nbyte`, `len` and `win` of the next state, if there is one. -/
def registersOf (o : Host.Outcome State Fault Refusal) : Option (Nat × Nat × Window) :=
  match o with
  | .next t => some (t.nbyte, t.len, t.win)
  | _ => none

/-! ## One step each (95_test_vectors.md sections 3 to 6) -/

theorem test_nop_keeps_frame : registersOf (exec .nop (holding 36 f0 5)) = some (5, 28, Window.sync) := by decide
theorem test_eoi_clears_partial_sync :
    registersOf (exec .eoi (hunting 32 ⟨0x00#8, 0xAA#8, 0x44#8⟩)) = some (0, 0, Window.cleared) ∧
    outputOf (exec .eoi (hunting 32 ⟨0x00#8, 0xAA#8, 0x44#8⟩)) = some Output.endOfFile := by decide
theorem test_reset_drops_frame :
    ∃ t, exec .reset (holding 36 f0 17) = .next t ∧ t.nbyte = 0 ∧ t.win = Window.cleared ∧ t.buf = ⟨36, []⟩ :=
  ⟨_, rfl, by decide, by decide, by decide⟩
theorem test_byte_completes_sync :
    registersOf (exec (.byte 0x12#8) (hunting 32 ⟨0x00#8, 0xAA#8, 0x44#8⟩)) = some (3, 0, Window.sync) := by decide
theorem test_byte_no_sync :
    registersOf (exec (.byte 0x12#8) (hunting 32 ⟨0xAA#8, 0x44#8, 0x44#8⟩)) =
      some (0, 0, ⟨0x44#8, 0x44#8, 0x12#8⟩) := by decide

/-- 95_test_vectors.md section 4, MAXRAWLEN = 32: N = 0 fits, N = 1 does not. -/
theorem test_tenth_byte_boundary :
    registersOf (exec (.byte 0x00#8) (holding 32 f0 9)) = some (10, 28, Window.sync) ∧
    outputOf (exec (.byte 0x00#8) (holding 32 ([0xAA#8, 0x44#8, 0x12#8] ++ List.replicate 5 0#8 ++ [0x01#8]) 9)) =
      some (Output.error .len) := by decide

/-- 95_test_vectors.md section 4: N = 65508 gives len 65536, not 0, and a length error. -/
theorem test_length_is_seventeen_bits :
    registersOf (exec (.byte 0xFF#8) (holding 16384 ([0xAA#8, 0x44#8, 0x12#8] ++ List.replicate 5 0#8 ++ [0xE4#8]) 9)) =
      some (0, 65536, Window.sync) := by decide

/-- 95_test_vectors.md section 5: F0 accepted with its fields. -/
theorem test_f0_accepted : outputOf (exec (.byte 0xC6#8) (holding 32 f0 31)) =
    some (Output.accepted ⟨28#17, 0#16, 1#16, 0#2, 2000#16, 0#32, 0xC651A8B5#32, f0⟩) := by decide +kernel

/-- 95_test_vectors.md section 5: a corrupted trailer, a zero week, and both. -/
theorem test_rejections :
    outputOf (exec (.byte 0xC7#8) (holding 32 f0 31)) = some (Output.error .crc) ∧
    outputOf (exec (.byte 0x1F#8) (holding 32 fz 31)) = some (Output.error .week) ∧
    outputOf (exec (.byte 0x1E#8) (holding 32 fz 31)) = some (Output.error .crc) := by decide +kernel

theorem test_beyond_buffer_faults : exec (.byte 0x00#8) (holding 32 f0 32) = .fault (.bufferIndex 32) := rfl

/-- The memory of the reset state is in canonical form. -/
theorem reset_memory_wf : Memory.wf State.reset.buf.size State.reset.buf.cells := Memory.wf_nil _

/-- 95_test_vectors.md section 1, E6, with `FILE_STEP` over a source that ends in the header: EOF. -/
theorem test_file_step_eof :
    (match fileStep [0xAA#8, 0x44#8] (hunting 32 Window.cleared) with
      | .next r => some r.output
      | _ => none) = some Output.endOfFile := by decide

/-! ## Witnesses: for each statement with hypotheses a state and operands that meet all of them -/

/-- HUNT, window clear, 40 bytes of buffer. -/
def huntState : State := hunting 40 Window.cleared

/-- The last byte of F0 is still to come, in a buffer it fills. -/
def lastByteState : State := holding 32 f0 31

theorem hunt_inv : huntState.Inv :=
  ⟨by decide, by decide, by decide, by decide, by decide, by decide, by decide⟩

theorem stale_inv : (hunting 40 Window.sync).Inv :=
  ⟨by decide, by decide, by decide, by decide, by decide, by decide, by decide⟩

theorem last_byte_inv : lastByteState.Inv :=
  ⟨by decide, by decide, by decide, by decide, by decide, by decide, by decide⟩

theorem witness_ReservedWordsAreRefused :
    ({ huntState with input := [0x201#10] } : State).nextWord.extractLsb' 8 2 ≠ 0b01#2 ∧
    ({ huntState with input := [0x201#10] } : State).nextWord.extractLsb' 0 8 ≠ 0x00#8 := by decide

theorem witness_FramePseudoBuildsFrame : (⟨1#16, 0#2, 2000#16, 0#32, [0x01#8]⟩ : FrameArgs).wf = true := by decide

theorem next_of_outputOf {o : Host.Outcome State Fault Refusal} {x : Output} (h : outputOf o = some x) :
    ∃ t, o = .next t ∧ t.out = some x := by
  cases o with
  | next t => exact ⟨t, rfl, h⟩
  | fault r => simp [outputOf] at h
  | refused r => simp [outputOf] at h

/-- Whether a sequence runs to its end. -/
def completes (o : Host.Outcome (List Output × State) Fault Refusal) : Bool :=
  match o with
  | .next _ => true
  | _ => false

theorem next_of_completes {o : Host.Outcome (List Output × State) Fault Refusal} (h : completes o = true) :
    ∃ os u, o = .next (os, u) := by
  cases o with
  | next p => exact ⟨p.1, p.2, rfl⟩
  | fault r => simp [completes] at h
  | refused r => simp [completes] at h

theorem witness_EveryTransactionHasOneOutput :
    (∃ t, exec .nop huntState = .next t ∧ t.out = some Output.quiet) ∧
    (∃ t, exec (.byte 0xC7#8) lastByteState = .next t ∧ t.out = some (Output.error .crc)) ∧
    (∃ t, exec (.byte 0xC6#8) lastByteState = .next t ∧
      t.out = some (Output.accepted ⟨28#17, 0#16, 1#16, 0#2, 2000#16, 0#32, 0xC651A8B5#32, f0⟩)) :=
  ⟨⟨_, rfl, rfl⟩, next_of_outputOf test_rejections.1, next_of_outputOf test_f0_accepted⟩

theorem witness_EofComesFromEoiAlone :
    ∃ t, exec .eoi huntState = .next t ∧ t.lastOutput.status = .eof := ⟨_, rfl, rfl⟩

theorem witness_CompositeReturnCodes :
    (Output.error .crc).status = .err ∧ Output.endOfFile.status = .eof ∧ Output.quiet.status = .none ∧
    (Output.accepted lastByteState.frameBundle).status = .accept := ⟨rfl, rfl, rfl, rfl⟩

theorem witness_StepRunsDecodedTransaction :
    ({ huntState with input := [0x1AA#10] } : State).input = 0x1AA#10 :: [] ∧ decode 0x1AA#10 = .ok (.byte 0xAA#8) ∧
    huntState.input = [] := ⟨rfl, by decide, rfl⟩

theorem witness_ResetValues : ∃ t, exec .reset lastByteState = .next t := ⟨_, rfl⟩

theorem witness_EoiAndResetActLikeFreshInstance :
    lastByteState.Inv ∧ (Instr.eoi = .eoi ∨ Instr.eoi = .reset) ∧ (Instr.reset = .eoi ∨ Instr.reset = .reset) :=
  ⟨last_byte_inv, .inl rfl, .inr rfl⟩

theorem witness_NopsChangeNoOtherOutput :
    ∃ os t, feed [.nop, .byte 0xAA#8, .nop] huntState = .next (os, t) := ⟨_, _, rfl⟩

/-- Both cases of the sync search: a byte that completes the pattern and one that does not. -/
theorem witness_HuntByteSearchesSync :
    (let s := hunting 40 ⟨0x00#8, 0xAA#8, 0x44#8⟩
     s.nbyte = 0 ∧ s.win.w1 = 0xAA#8 ∧ s.win.w2 = 0x44#8) ∧
    (huntState.nbyte = 0 ∧ ¬ huntState.win.w1 = 0xAA#8) := by decide

theorem witness_SyncIsLastThreeHuntBytes :
    ∃ s₁ s₂, huntState.nbyte = 0 ∧ exec (.byte 0xAA#8) huntState = .next s₁ ∧ s₁.nbyte = 0 ∧
      exec (.byte 0x44#8) s₁ = .next s₂ ∧ s₂.nbyte = 0 := ⟨_, _, rfl, rfl, rfl, rfl, rfl⟩

theorem witness_OverlappingPrefixesResolve : huntState.nbyte = 0 ∧ huntState.win.w2 ≠ 0xAA#8 := by decide

theorem witness_GarbageIsConsumedQuietly : huntState.nbyte = 0 ∧
    ¬ [0xAA#8, 0x44#8, 0x12#8] <:+: huntState.win.w1 :: huntState.win.w2 :: [0xAA#8, 0x44#8, 0x44#8, 0x12#8] := by decide

theorem witness_StaleWindowActsLikeReset : (hunting 40 Window.sync).Inv ∧ (hunting 40 Window.sync).nbyte = 0 ∧
    (hunting 40 Window.sync).win = ⟨0xAA#8, 0x44#8, 0x12#8⟩ := ⟨stale_inv, rfl, rfl⟩

/-- The three places of an incomplete frame: before the length, its tenth byte with the largest body that fits, and the
byte before the last. -/
theorem witness_AccumulateByteIsStored :
    (let s := holding 36 f0 3
     3 ≤ s.nbyte ∧ s.nbyte < s.buf.size ∧ s.len = (if s.nbyte = 9 then 28 + 0 else s.len) ∧
      ¬ (s.nbyte = 9 ∧ s.buf.size - 4 < s.len) ∧ ¬ (10 ≤ s.nbyte ∧ s.len + 4 ≤ s.nbyte + 1)) ∧
    (let s := holding 32 f0 9
     3 ≤ s.nbyte ∧ s.nbyte < s.buf.size ∧
      28 = (if s.nbyte = 9 then 28 + ((s.readByte 8).toNat + 256 * (0x00#8).toNat) else s.len) ∧
      ¬ (s.nbyte = 9 ∧ s.buf.size - 4 < 28) ∧ ¬ (10 ≤ s.nbyte ∧ 28 + 4 ≤ s.nbyte + 1)) ∧
    (let s := holding 32 f0 30
     3 ≤ s.nbyte ∧ s.nbyte < s.buf.size ∧ s.len = (if s.nbyte = 9 then 28 + 0 else s.len) ∧
      ¬ (s.nbyte = 9 ∧ s.buf.size - 4 < s.len) ∧ ¬ (10 ≤ s.nbyte ∧ s.len + 4 ≤ s.nbyte + 1)) := by decide

/-- A prefix that declares N = 1, one too many for a buffer of 32 bytes. -/
def tooLargeState : State := holding 32 ([0xAA#8, 0x44#8, 0x12#8] ++ List.replicate 5 0#8 ++ [0x01#8]) 9

theorem witness_LengthErrorOnTenthByteOnly :
    (tooLargeState.nbyte = 9 ∧ 9 < tooLargeState.buf.size ∧
      tooLargeState.buf.size - 4 < 28 + ((tooLargeState.readByte 8).toNat + 256 * (0x00#8).toNat)) ∧
    ∃ t, exec (.byte 0x00#8) tooLargeState = .next t ∧ t.lastOutput.cause = .len :=
  ⟨by decide, _, rfl, by decide⟩

/-- One byte for each of the three verdicts. -/
theorem witness_CompletingByteGivesVerdict :
    (10 ≤ lastByteState.nbyte ∧ lastByteState.nbyte + 1 = lastByteState.len + 4 ∧
      lastByteState.nbyte < lastByteState.buf.size) ∧
    (10 ≤ (holding 32 fz 31).nbyte ∧ (holding 32 fz 31).nbyte + 1 = (holding 32 fz 31).len + 4 ∧
      (holding 32 fz 31).nbyte < (holding 32 fz 31).buf.size) ∧
    outputOf (exec (.byte 0xC7#8) lastByteState) = some ⟨.err, .crc, none⟩ ∧
    outputOf (exec (.byte 0x1F#8) (holding 32 fz 31)) = some ⟨.err, .week, none⟩ := by decide +kernel

theorem witness_AcceptedBundleHoldsFields :
    ∃ t f, exec (.byte 0xC6#8) lastByteState = .next t ∧ t.lastOutput.bundle = some f :=
  ⟨_, ⟨28#17, 0#16, 1#16, 0#2, 2000#16, 0#32, 0xC651A8B5#32, f0⟩, rfl, by decide +kernel⟩

theorem witness_NoPartialMessage :
    lastByteState.Inv ∧ ∃ t, exec (.byte 0xC6#8) lastByteState = .next t ∧ t.lastOutput.bundle.isSome = true :=
  ⟨last_byte_inv, _, rfl, by decide +kernel⟩

/-- An error of each cause. -/
theorem witness_FrameErrorOnlyDropsFrame :
    (∃ t, exec (.byte 0x00#8) tooLargeState = .next t ∧ t.lastOutput.status = .err) ∧
    (∃ t, exec (.byte 0xC7#8) lastByteState = .next t ∧ t.lastOutput.status = .err) ∧
    (∃ t, exec (.byte 0x1F#8) (holding 32 fz 31) = .next t ∧ t.lastOutput.status = .err) :=
  ⟨⟨_, rfl, by decide⟩, ⟨_, rfl, by decide +kernel⟩, ⟨_, rfl, by decide +kernel⟩⟩

theorem witness_ByteFrame :
    (∃ t, exec (.byte 0xAA#8) huntState = .next t) ∧
    (∃ t, exec (.byte 0x00#8) (holding 32 f0 30) = .next t ∧ (holding 32 f0 30).nbyte ≠ 0 ∧
      (holding 32 f0 30).nbyte ≠ 9 ∧ 0 ∉ (holding 32 f0 30).storedIndices 0x00#8) :=
  ⟨⟨_, rfl⟩, _, rfl, by decide, by decide, by decide⟩

theorem witness_FrameBytesStayOutOfWindow :
    lastByteState.Inv ∧ 3 ≤ lastByteState.nbyte ∧
    ∃ t, exec (.byte 0xC7#8) lastByteState = .next t ∧ t.nbyte = 0 :=
  ⟨last_byte_inv, by decide, _, rfl, by decide +kernel⟩

theorem witness_BufferNeverOverflows :
    lastByteState.Inv ∧ 31 ∈ lastByteState.storedIndices 0xC6#8 ∧ 10 ≤ lastByteState.nbyte :=
  ⟨last_byte_inv, by decide, by decide⟩

theorem witness_ByteBeyondBufferFaults :
    (holding 32 f0 32).nbyte ≠ 0 ∧ (holding 32 f0 32).buf.size ≤ (holding 32 f0 32).nbyte := by decide

theorem witness_EveryStepKeepsInvariants : huntState.Inv ∧ ∃ t, step huntState = .next t := ⟨hunt_inv, _, rfl⟩

theorem witness_BlockNeverSticks :
    ({ huntState with input := [0x1AA#10] } : State).Inv ∧
    ({ huntState with input := [0x1AA#10] } : State).input = 0x1AA#10 :: [] ∧ TWord.legal 0x1AA#10 = true :=
  ⟨⟨by decide, by decide, by decide, by decide, by decide, by decide, by decide⟩, rfl, by decide⟩

/-- A state that agrees with `huntState` and differs in `len`, in a stale byte and in the draws. -/
def staleState : State := { huntState with len := 65563, buf := ⟨40, [(7, 0xFF#8)]⟩, draws := 5 }

theorem witness_UnspecifiedValuesReachNoOutput :
    huntState.Inv ∧ staleState.Inv ∧ huntState.Agrees staleState ∧ huntState ≠ staleState :=
  ⟨hunt_inv, ⟨by decide, by decide, by decide, by decide, by decide, by decide, by decide⟩,
    ⟨rfl, rfl, rfl, by decide, by decide⟩, by decide⟩

theorem witness_IncrementalCrcRefines :
    (⟨holding 32 f0 3, 0xB34323FF#32⟩ : IncState).base.Inv ∧ (⟨holding 32 f0 3, 0xB34323FF#32⟩ : IncState).Tracks :=
  ⟨⟨by decide, by decide, by decide, by decide, by decide, by decide, by decide⟩, fun _ => by decide +kernel⟩

theorem f0_is_frame : Wire.isFrame f0 := by decide

theorem witness_FrameOccupiesItsBytes :
    huntState.Inv ∧ huntState.nbyte = 0 ∧ Wire.isFrame f0 ∧ f0.length ≤ huntState.buf.size :=
  ⟨hunt_inv, rfl, f0_is_frame, by decide⟩

/-- The garbage of program P1 (95_test_vectors.md), then F0. -/
theorem witness_ValidFrameIsAccepted :
    huntState.Inv ∧ huntState.nbyte = 0 ∧
    ¬ [0xAA#8, 0x44#8, 0x12#8] <:+: huntState.win.w1 :: huntState.win.w2 :: [0x00#8, 0xAA#8, 0x44#8] ∧
    Wire.isFrame f0 ∧ Wire.bodyLen f0 ≤ huntState.buf.size - 32 ∧ Wire.trailerOk f0 ∧ Wire.week f0 ≠ 0 :=
  ⟨hunt_inv, rfl, by decide, f0_is_frame, by decide, by decide +kernel, by decide⟩

/-- F0 with its last byte changed from C6 to C7 (95_test_vectors.md E2). -/
def f0Corrupt : List Byte := frameF0 0xD0#8 0x07#8 0xB5#8 0xA8#8 0x51#8 0xC7#8

theorem witness_BadFramesAreRejected :
    (huntState.Inv ∧ huntState.nbyte = 0) ∧
    (Wire.isFrame f0Corrupt ∧ f0Corrupt.length ≤ huntState.buf.size ∧ ¬ Wire.trailerOk f0Corrupt) ∧
    (Wire.isFrame fz ∧ fz.length ≤ huntState.buf.size ∧ Wire.trailerOk fz ∧ Wire.week fz = 0) :=
  ⟨⟨hunt_inv, rfl⟩, by decide +kernel, by decide +kernel⟩

/-- A body of 9 bytes for a buffer of 40, whose largest is 8; and a buffer no length error can occur in. -/
theorem witness_OversizeFrameIsDropped :
    (let f : List Byte := [0xAA#8, 0x44#8, 0x12#8] ++ List.replicate 5 0#8 ++ [0x09#8, 0x00#8]
     f.take 3 = [0xAA#8, 0x44#8, 0x12#8] ∧ f.length = 10 ∧ huntState.buf.size - 32 < Wire.bodyLen f) ∧
    (huntState.Inv ∧ huntState.nbyte = 0) ∧
    65567 ≤ (hunting 65567 Window.cleared).buf.size ∧
    ∃ t, exec (.byte 0xAA#8) (hunting 65567 Window.cleared) = .next t :=
  ⟨by decide, ⟨hunt_inv, rfl⟩, by decide, _, rfl⟩

theorem witness_ShortBurstIsDetected :
    huntState.Inv ∧ huntState.nbyte = 0 ∧ Wire.isFrame f0 ∧ Wire.trailerOk f0 ∧ f0.length ≤ huntState.buf.size ∧
    f0Corrupt.length = f0.length ∧ f0Corrupt ≠ f0 ∧
    (∀ i, i < 28 ∨ 28 + 4 ≤ i → f0Corrupt[i]? = f0[i]?) ∧
    (∀ i, i ∈ [0, 1, 2, 8, 9] → f0Corrupt[i]? = f0[i]?) := by
  refine ⟨hunt_inv, rfl, f0_is_frame, by decide +kernel, by decide, by decide, by decide, fun i hi => ?_, by decide⟩
  rcases hi with hi | hi
  · revert i; decide
  · rw [List.getElem?_eq_none (by simpa [f0Corrupt, frameF0] using hi),
      List.getElem?_eq_none (by simpa [f0, frameF0] using hi)]

/-- A FRAME with a nonzero week and one with week 0. -/
theorem witness_FramePseudoIsJudgedByWeek :
    huntState.Inv ∧ huntState.nbyte = 0 ∧
    (let a : FrameArgs := ⟨1#16, 0#2, 2000#16, 0#32, [0x01#8]⟩
     a.wf = true ∧ 32 + a.body.length ≤ huntState.buf.size ∧ ¬ a.week = 0#16) ∧
    (let a : FrameArgs := ⟨1#16, 0#2, 0#16, 0#32, []⟩
     a.wf = true ∧ 32 + a.body.length ≤ huntState.buf.size ∧ a.week = 0#16) :=
  ⟨hunt_inv, rfl, by decide, by decide⟩

/-- The state after F0 is accepted. -/
def acceptedState : State := (lastByteState.storeNext 0xC6#8).afterStore

/-- Three bytes, with a NOP and an EOI among them. -/
def threeBytes : List Instr := [.nop, .byte 0xAA#8, .eoi, .byte 0x44#8, .byte 0x12#8]

theorem witness_AcceptedFrameOutlivesThreeBytes :
    lastByteState.Inv ∧ exec (.byte 0xC6#8) lastByteState = .next acceptedState ∧
    acceptedState.lastOutput.bundle = some ⟨28#17, 0#16, 1#16, 0#2, 2000#16, 0#32, 0xC651A8B5#32, f0⟩ ∧
    Instr.reset ∉ threeBytes ∧ (threeBytes.countP fun j => decide (j ≠ .nop ∧ j ≠ .eoi)) ≤ 3 ∧
    ∃ os u, feed threeBytes acceptedState = .next (os, u) :=
  ⟨last_byte_inv, rfl, by decide +kernel, by decide, by decide, next_of_completes (by decide +kernel)⟩

theorem witness_FrameFoundOnThirdByte : huntState.nbyte = 0 := rfl

/-- A call of the file entry in HUNT and one in the middle of a frame. -/
theorem witness_FileStepAnswersFirstOutput : huntState.Inv ∧ lastByteState.Inv := ⟨hunt_inv, last_byte_inv⟩

theorem witness_BulkReadsEqualFileStep : huntState.Inv ∧ huntState.nbyte = 0 := ⟨hunt_inv, rfl⟩

theorem witness_SharedWindowLayoutRefines :
    huntState.SharesWindow { huntState with buf := ⟨40, [(0, 0#8), (1, 0#8), (2, 0#8)]⟩ } := by
  refine ⟨hunt_inv, rfl, rfl, rfl, rfl, by decide, fun i hi => ?_⟩
  simp [State.readByte, Memory.lookup, huntState, hunting, State.reset, show i ≠ 0 by omega, show i ≠ 1 by omega,
    show i ≠ 2 by omega]

end Sys2Proof.Machine.Tests
end

section
/-! # The words of a step and what the host presents (00_scope.md R3, R15; 30_encoding.md R53, R60) -/

namespace Sys2Proof

/-! ## The decoder reads back what the encoder writes -/

@[simp] theorem opField_wordOf (op : BitVec 2) (data : Byte) : opField (wordOf op data) = op :=
  BitVec.extractLsb'_append_eq_left

@[simp] theorem dataField_wordOf (op : BitVec 2) (data : Byte) : dataField (wordOf op data) = data :=
  BitVec.extractLsb'_append_eq_right

/-- Each `op` selects its own branch of the decoder, and a control word has the zero data field the decoder asks for
(30_encoding.md R53, R55). -/
@[simp] theorem decode_encode (i : Instr) : decode (encode i) = .ok i := by
  cases i <;> simp [encode, decode, noOperand]

end Sys2Proof

namespace Sys2Proof.Machine

/-! ## One step, by the word it takes -/

theorem step_of_decode {s : State} {i : Instr} (h : decode s.nextWord = .ok i) : step s = exec i s.takeInput := by
  rcases step_cases s with ⟨j, hj, hstep⟩ | ⟨w, hw, -⟩
  · obtain rfl : i = j := Except.ok.inj (h.symm.trans hj)
    exact hstep
  · cases h.symm.trans hw

theorem decode_idleWord : decode idleWord = .ok .nop := decode_encode .nop

/-- With nothing presented the idle word is taken, and taking it leaves the input empty (log entry 6). -/
theorem step_of_input_nil {s : State} (h : s.input = []) : step s = exec .nop s := by
  have hdecode : decode s.nextWord = .ok .nop := by simp [State.nextWord, h, decode_idleWord]
  have htake : s.takeInput = s := by rw [State.takeInput, h, List.tail_nil, ← h]
  rw [step_of_decode hdecode, htake]

/-- The state with other words still to be presented: the form in which the statements about `step` give the input. -/
def State.setInput (s : State) (ws : List TWord) : State := { s with input := ws }

@[simp] theorem State.setInput_nbyte (s : State) (ws : List TWord) : (s.setInput ws).nbyte = s.nbyte := rfl

@[simp] theorem State.setInput_buf (s : State) (ws : List TWord) : (s.setInput ws).buf = s.buf := rfl

@[simp] theorem State.setInput_input (s : State) (ws : List TWord) : (s.setInput ws).input = ws := rfl

@[simp] theorem State.setInput_setInput (s : State) (vs ws : List TWord) :
    (s.setInput vs).setInput ws = s.setInput ws := rfl

theorem State.setInput_self (s : State) : s.setInput s.input = s := rfl

theorem State.takeInput_eq_setInput {s : State} {w : TWord} {ws : List TWord} (h : s.input = w :: ws) :
    s.takeInput = s.setInput ws := by
  simp [State.takeInput, State.setInput, h]

theorem step_of_input_cons {s : State} {w : TWord} {ws : List TWord} {i : Instr} (h : s.input = w :: ws)
    (hi : decode w = .ok i) : step s = exec i (s.setInput ws) := by
  have hdecode : decode s.nextWord = .ok i := by simp [State.nextWord, h, hi]
  rw [step_of_decode hdecode, State.takeInput_eq_setInput h]

/-- A step that takes an instruction's word runs the instruction on what is left. -/
theorem step_setInput_encode (s : State) (i : Instr) (ws : List TWord) :
    step (s.setInput (encode i :: ws)) = exec i (s.setInput ws) :=
  step_of_input_cons rfl (decode_encode i)

/-! ## No transaction reads or writes the words still to be presented -/

theorem State.validate_setInput (s : State) (ws : List TWord) :
    (s.setInput ws).validate = s.validate.setInput ws := by
  have htrailer : (s.setInput ws).trailer = s.trailer := rfl
  have hcrc : (s.setInput ws).crcCalc = s.crcCalc := rfl
  have hweek : (s.setInput ws).week = s.week := rfl
  simp only [State.validate, State.validateWith, htrailer, hcrc, hweek, apply_ite (State.setInput · ws)]
  rfl

theorem State.completeWith_setInput (s : State) (ws : List TWord) :
    (s.setInput ws).completeWith State.validate = (s.completeWith State.validate).setInput ws := by
  have hincomplete : (s.setInput ws).incomplete = s.incomplete := rfl
  have hverdict : ((s.setInput ws).setNbyte 0).validate = (s.setNbyte 0).validate.setInput ws :=
    (s.setNbyte 0).validate_setInput ws
  simp only [State.completeWith, hincomplete, hverdict, apply_ite (State.setInput · ws)]
  rfl

theorem State.afterStore_setInput (s : State) (ws : List TWord) :
    (s.setInput ws).afterStore = s.afterStore.setInput ws := by
  have hlength : (s.setInput ws).readLength = s.readLength.setInput ws := rfl
  have hlarge : (s.readLength.setInput ws).tooLarge = s.readLength.tooLarge := rfl
  simp only [State.afterStore, State.afterStoreWith, State.setInput_nbyte, hlength, hlarge, State.completeWith_setInput,
    apply_ite (State.setInput · ws)]
  rfl

theorem State.hunt_setInput (s : State) (ws : List TWord) (b : Byte) :
    (s.setInput ws).hunt b = (s.hunt b).setInput ws := by
  have hsync : (s.setInput ws).completesSync b = s.completesSync b := rfl
  simp only [State.hunt, hsync]
  cases s.completesSync b <;> rfl

/-- An outcome with other words still to be presented after it. -/
def setOutcomeInput (ws : List TWord) : Host.Outcome State Fault Refusal → Host.Outcome State Fault Refusal
  | .next t => .next (t.setInput ws)
  | .fault r => .fault r
  | .refused r => .refused r

theorem execByte_setInput (b : Byte) (s : State) (ws : List TWord) :
    execByte b (s.setInput ws) = setOutcomeInput ws (execByte b s) := by
  have hstored : (s.setInput ws).storeNext b = (s.storeNext b).setInput ws := rfl
  simp only [execByte, State.accumulate, State.setInput_nbyte, State.setInput_buf, State.hunt_setInput, hstored,
    State.afterStore_setInput]
  split
  · rfl
  · split <;> rfl

/-- A transaction runs alike whatever is presented after it, and leaves that as it is (log entry 6). -/
theorem exec_setInput (i : Instr) (s : State) (ws : List TWord) :
    exec i (s.setInput ws) = setOutcomeInput ws (exec i s) := by
  cases i with
  | byte b => exact execByte_setInput b s ws
  | nop => rfl
  | eoi => rfl
  | reset => rfl

/-- `exec_setInput` at the state's own input: what is presented is the same after the transaction. -/
theorem exec_input {i : Instr} {s t : State} (h : exec i s = .next t) : t.input = s.input := by
  have hself : exec i s = .next (t.setInput s.input) := by
    simpa [State.setInput_self, setOutcomeInput, h] using exec_setInput i s s.input
  have ht : t = t.setInput s.input := Host.Outcome.next.inj (h.symm.trans hself)
  rw [ht, State.setInput_input]

/-! ## Steps over presented words -/

theorem run_succ_of_next {s t : State} (k : Nat) (h : step s = .next t) : core.run (k + 1) s = core.run k t := by
  have hcore : core.step s = .next t := h
  simp only [Host.Core.run, hcore]

theorem run_succ_of_fault {s : State} {r : Fault} (k : Nat) (h : step s = .fault r) :
    core.run (k + 1) s = .fault r := by
  have hcore : core.step s = .fault r := h
  simp only [Host.Core.run, hcore]

/-- What a transaction sequence answers without its outputs: the state after it, or why it stopped. -/
def finalOutcome : Host.Outcome (List Output × State) Fault Refusal → Host.Outcome State Fault Refusal
  | .next (_, t) => .next t
  | .fault r => .fault r
  | .refused r => .refused r

/-- Steps over presented words are `feed` without the presented words: the first step leaves what `exec` leaves, with the
rest of the sequence still presented. -/
theorem run_setInput_encode (is : List Instr) (s : State) (ws : List TWord) :
    core.run is.length (s.setInput (is.map encode ++ ws)) = finalOutcome (feed is (s.setInput ws)) := by
  induction is generalizing s with
  | nil => rfl
  | cons i is ih =>
    have hstep : step (s.setInput ((i :: is).map encode ++ ws)) =
        setOutcomeInput (is.map encode ++ ws) (exec i (s.setInput ws)) := by
      rw [← exec_setInput, State.setInput_setInput]
      exact step_setInput_encode s i _
    cases he : exec i (s.setInput ws) with
    | next t =>
      have ht : t.setInput ws = t := by rw [← s.setInput_input ws, ← exec_input he, State.setInput_self]
      have hrun : core.run is.length (t.setInput (is.map encode ++ ws)) = finalOutcome (feed is t) := by
        simpa only [ht] using ih t
      have hfeed : finalOutcome (feed (i :: is) (s.setInput ws)) = finalOutcome (feed is t) := by
        simp only [feed, he]
        cases feed is t <;> rfl
      exact ((run_succ_of_next _ (hstep.trans (congrArg _ he))).trans hrun).trans hfeed.symm
    | fault r =>
      have hfeed : feed (i :: is) (s.setInput ws) = .fault r := by simp only [feed, he]
      exact (run_succ_of_fault _ (hstep.trans (congrArg _ he))).trans (congrArg finalOutcome hfeed.symm)
    | refused r => exact absurd he (exec_ne_refused i _ r)

/-! ## The obligations -/

/-- Settles O10: a presented word is taken and its transaction runs; with none presented the idle word is a NOP. -/
theorem stepRunsDecodedTransaction : Obligations.StepRunsDecodedTransaction := by
  unfold Obligations.StepRunsDecodedTransaction
  exact ⟨fun _ _ _ _ => step_of_input_cons, fun _ => step_of_input_nil⟩

/-- Settles O11, by induction on the transactions: each step runs its transaction on a state that differs from the fed
one in the words still presented only. -/
theorem stepsRunPresentedStream : Obligations.StepsRunPresentedStream := by
  unfold Obligations.StepsRunPresentedStream
  intro is s ws
  refine (run_setInput_encode is s ws).trans ?_
  change finalOutcome (feed is { s with input := ws }) = _
  cases feed is { s with input := ws } <;> rfl

end Sys2Proof.Machine
end

section
/-! # What BYTE writes and what it leaves (10_state.md R21 to R23, 20_memory.md R34, 41_framer.md R73) -/

namespace Sys2Proof.Machine

/-! ## Which rule a BYTE runs -/

theorem execByte_of_hunt {s : State} (b : Byte) (h : s.nbyte = 0) : execByte b s = .next (s.hunt b) := if_pos h

theorem execByte_of_accumulate {s : State} (b : Byte) (h : s.nbyte ≠ 0) (hroom : s.nbyte < s.buf.size) :
    execByte b s = .next (s.storeNext b).afterStore :=
  (if_neg h).trans (if_pos hroom)

theorem State.hunt_of_sync {s : State} {b : Byte} (h : s.win.shift b = Window.sync) :
    s.hunt b = ((s.setWin (s.win.shift b)).openFrame).emit Output.quiet := by
  simp [State.hunt, State.completesSync, h]

theorem State.hunt_of_no_sync {s : State} {b : Byte} (h : s.win.shift b ≠ Window.sync) :
    s.hunt b = (s.setWin (s.win.shift b)).emit Output.quiet := by
  simp [State.hunt, State.completesSync, h]

/-! ## The indices stored to (20_memory.md R34) -/

theorem State.storedIndices_of_sync {s : State} {b : Byte} (h : s.nbyte = 0) (hsync : s.win.shift b = Window.sync) :
    s.storedIndices b = [0, 1, 2] := by
  simp [State.storedIndices, State.completesSync, h, hsync]

theorem State.storedIndices_of_accumulate {s : State} (b : Byte) (h : s.nbyte ≠ 0) :
    s.storedIndices b = [s.nbyte] := if_neg h

/-! ## The rules write no more than their own registers -/

/-- The output of Validate() on a complete frame (42_crc_validator.md R85, R91). -/
def State.verdict (s : State) : Output :=
  if s.crcCalc ≠ s.trailer then Output.error .crc
  else if s.week = 0#16 then Output.error .week
  else Output.accepted s.frameBundle

/-- Where `nbyte` is 0 already, as at completion (41_framer.md R73), dropping the frame is only the output: Validate()
writes nothing else. -/
theorem State.validate_of_hunt {s : State} (h : s.nbyte = 0) : s.validate = s.emit s.verdict := by
  have hdrop : s.setNbyte 0 = s := by rw [← h]; rfl
  simp only [State.validate, State.validateWith, State.raiseFrameError, State.verdict, hdrop, apply_ite s.emit]

/-- After its store an ACCUMULATE step writes `nbyte`, the output, and on the tenth byte `len` (41_framer.md R73). -/
theorem State.afterStore_eq_emit (s : State) :
    ∃ n l o, s.afterStore = ((s.setLen l).setNbyte n).emit o ∧ (s.nbyte ≠ 10 → l = s.len) := by
  rcases s.afterStoreWith_cases State.validate with ⟨-, h⟩ | ⟨h10, -, h⟩ | ⟨h10, -, h⟩ | ⟨-, -, h⟩ | ⟨-, -, h⟩
  · exact ⟨s.nbyte, s.len, _, h, fun _ => rfl⟩
  · exact ⟨0, _, _, h, fun hne => absurd h10 hne⟩
  · exact ⟨s.nbyte, _, _, h, fun hne => absurd h10 hne⟩
  · exact ⟨s.nbyte, s.len, _, h, fun _ => rfl⟩
  · exact ⟨0, s.len, _, h.trans (State.validate_of_hunt rfl), fun _ => rfl⟩

@[simp] theorem State.afterStore_win (s : State) : s.afterStore.win = s.win := by
  obtain ⟨n, l, o, h, -⟩ := s.afterStore_eq_emit
  rw [h]; rfl

@[simp] theorem State.afterStore_buf (s : State) : s.afterStore.buf = s.buf := by
  obtain ⟨n, l, o, h, -⟩ := s.afterStore_eq_emit
  rw [h]; rfl

@[simp] theorem State.afterStore_draws (s : State) : s.afterStore.draws = s.draws := by
  obtain ⟨n, l, o, h, -⟩ := s.afterStore_eq_emit
  rw [h]; rfl

@[simp] theorem State.readByte_afterStore (s : State) (i : Nat) : s.afterStore.readByte i = s.readByte i := by
  obtain ⟨n, l, o, h, -⟩ := s.afterStore_eq_emit
  rw [h]; rfl

theorem State.afterStore_len {s : State} (h10 : s.nbyte ≠ 10) : s.afterStore.len = s.len := by
  obtain ⟨n, l, o, h, hl⟩ := s.afterStore_eq_emit
  rw [h, ← hl h10]; rfl

@[simp] theorem State.hunt_len (s : State) (b : Byte) : (s.hunt b).len = s.len := by
  rcases s.hunt_cases b with ⟨-, h⟩ | ⟨-, h⟩ <;> simp [h]

@[simp] theorem State.hunt_size (s : State) (b : Byte) : (s.hunt b).buf.size = s.buf.size := by
  rcases s.hunt_cases b with ⟨-, h⟩ | ⟨-, h⟩ <;> simp [h]

@[simp] theorem State.hunt_draws (s : State) (b : Byte) : (s.hunt b).draws = s.draws := by
  rcases s.hunt_cases b with ⟨-, h⟩ | ⟨-, h⟩ <;> simp [h]

theorem State.readByte_hunt {s : State} {b : Byte} {a : Nat} (h0 : s.nbyte = 0) (ha : a ∉ s.storedIndices b) :
    (s.hunt b).readByte a = s.readByte a := by
  rcases s.hunt_cases b with ⟨hsync, h⟩ | ⟨-, h⟩
  · rw [State.storedIndices_of_sync h0 hsync] at ha
    obtain ⟨h₀, h₁, h₂⟩ : a ≠ 0 ∧ a ≠ 1 ∧ a ≠ 2 := by simpa using ha
    simp [h, State.readByte_openFrame, h₀, h₁, h₂]
  · simp [h]

theorem State.readByte_accumulate {s : State} {b : Byte} {a : Nat} (h0 : s.nbyte ≠ 0) (ha : a ∉ s.storedIndices b) :
    (s.storeNext b).afterStore.readByte a = s.readByte a := by
  have hne : a ≠ s.nbyte := by simpa [State.storedIndices_of_accumulate b h0] using ha
  simp [hne]

/-! ## The obligation -/

/-- Settles O30: a hunt byte writes the window and, on sync, three bytes; an ACCUMULATE byte writes the byte at `nbyte`, and
the length on the byte that makes `nbyte` 10. -/
theorem byteFrame : Obligations.ByteFrame := by
  unfold Obligations.ByteFrame
  intro s t b hexec
  have hinput : t.input = s.input := exec_input hexec
  rw [exec_byte] at hexec
  rcases execByte_cases b s with ⟨h0, h⟩ | ⟨h0, -, h⟩ | ⟨-, -, h⟩
  · obtain rfl : s.hunt b = t := Host.Outcome.next.inj (h.symm.trans hexec)
    exact ⟨fun a => State.readByte_hunt h0, fun hne => absurd h0 hne, fun _ => s.hunt_len b, s.hunt_size b,
      s.hunt_draws b, hinput⟩
  · obtain rfl : (s.storeNext b).afterStore = t := Host.Outcome.next.inj (h.symm.trans hexec)
    exact ⟨fun a => State.readByte_accumulate h0, fun _ => by simp,
      fun h9 => State.afterStore_len fun h10 => h9 (Nat.succ.inj h10), by simp, by simp, hinput⟩
  · cases h.symm.trans hexec

end Sys2Proof.Machine
end

section
/-! # The invariants of the block hold at reset and after every step (10_state.md R28) -/

namespace Sys2Proof.Machine

/-! ## What an invariant state is made of -/

/-- In HUNT the invariants ask only for a legal capacity and the canonical form of the buffer. -/
theorem State.inv_of_hunt {s : State} (capacity : 32 ≤ s.buf.size) (cells : Memory.wf s.buf.size s.buf.cells)
    (h : s.nbyte = 0) : s.Inv where
  capacity := capacity
  cells := cells
  phase := .inl h
  syncHeld h3 := by omega
  lengthKnown h10 := by omega
  inBuffer := by omega
  windowHeld h3 := by omega

/-- R28 (4), as the bound that a store at `nbyte` needs. -/
theorem State.Inv.nbyte_lt_size {s : State} (h : s.Inv) : s.nbyte < s.buf.size := by
  have hcapacity := h.capacity
  have hinBuffer := h.inBuffer
  omega

theorem State.Inv.three_le {s : State} (h : s.Inv) (h0 : s.nbyte ≠ 0) : 3 ≤ s.nbyte := h.phase.resolve_left h0

theorem State.Inv.emit {s : State} (h : s.Inv) (o : Output) : (s.emit o).Inv :=
  ⟨h.capacity, h.cells, h.phase, h.syncHeld, h.lengthKnown, h.inBuffer, h.windowHeld⟩

theorem State.Inv.takeInput {s : State} (h : s.Inv) : s.takeInput.Inv :=
  ⟨h.capacity, h.cells, h.phase, h.syncHeld, h.lengthKnown, h.inBuffer, h.windowHeld⟩

/-! ## The stores of BYTE -/

theorem State.openFrame_wf {s : State} (hcapacity : 32 ≤ s.buf.size) (hcells : Memory.wf s.buf.size s.buf.cells) :
    Memory.wf s.openFrame.buf.size s.openFrame.buf.cells := by
  have h₀ : 0 < s.buf.size := by omega
  have h₁ : 1 < s.buf.size := by omega
  have h₂ : 2 < s.buf.size := by omega
  exact Memory.wf_store _ (Memory.wf_store _ (Memory.wf_store _ hcells h₀) h₁) h₂

theorem State.storeNext_wf {s : State} (h : s.Inv) (b : Byte) :
    Memory.wf (s.storeNext b).buf.size (s.storeNext b).buf.cells :=
  Memory.wf_store b h.cells h.nbyte_lt_size

/-- A store at `nbyte` is beyond every field read below `nbyte`. -/
theorem State.memRead_storeNext {s : State} (b : Byte) {a n : Nat} (h : a + n ≤ s.nbyte) :
    (s.storeNext b).memRead a n = s.memRead a n :=
  State.memRead_congr n fun k hk => by simp [show a + k ≠ s.nbyte by omega]

/-- A stored byte keeps the invariants with `len` as `n`, which has to be the declared length once byte 9 is stored
(10_state.md R28 (3)). -/
theorem State.Inv.setLen_storeNext {s : State} (h : s.Inv) (h3 : 3 ≤ s.nbyte) (b : Byte) {n : Nat}
    (hlength : 9 ≤ s.nbyte →
      n = 28 + (s.storeNext b).memRead 8 2 ∧ n ≤ s.buf.size - 4 ∧ s.nbyte + 1 ≤ n + 3) :
    ((s.storeNext b).setLen n).Inv where
  capacity := h.capacity
  cells := State.storeNext_wf h b
  phase := .inr (Nat.le_succ_of_le h3)
  syncHeld _ := by
    have h₀ : 0 ≠ s.nbyte := by omega
    have h₁ : 1 ≠ s.nbyte := by omega
    have h₂ : 2 ≠ s.nbyte := by omega
    simpa [h₀, h₁, h₂] using h.syncHeld h3
  lengthKnown h10 := hlength (Nat.le_of_succ_le_succ h10)
  inBuffer := by
    have hcapacity := h.capacity
    simp only [State.setLen_nbyte, State.storeNext_nbyte, State.setLen_buf, State.storeNext_size]
    omega
  windowHeld _ := h.windowHeld h3

/-! ## Each rule keeps the invariants -/

theorem State.Inv.hunt {s : State} (h : s.Inv) (h0 : s.nbyte = 0) (b : Byte) : (s.hunt b).Inv := by
  have hcapacity := h.capacity
  rcases s.hunt_cases b with ⟨hsync, heq⟩ | ⟨-, heq⟩
  · have hopened : (s.setWin (s.win.shift b)).openFrame.Inv := by
      refine ⟨hcapacity, ?_, .inr le_rfl, fun _ => ?_, fun h10 => ?_, ?_, fun _ => hsync⟩
      · exact State.openFrame_wf (s := s.setWin (s.win.shift b)) hcapacity h.cells
      · simp [State.readByte_openFrame]
      · simp at h10
      · simp only [State.openFrame_nbyte, State.openFrame_size, State.setWin_buf]; omega
    exact heq ▸ hopened.emit _
  · exact heq ▸ State.inv_of_hunt hcapacity h.cells h0

/-- The five ways an ACCUMULATE step ends: three go on with the frame, two return to HUNT. -/
theorem State.Inv.accumulate {s : State} (h : s.Inv) (h3 : 3 ≤ s.nbyte) (b : Byte) :
    (s.storeNext b).afterStore.Inv := by
  have hcells := State.storeNext_wf h b
  rw [State.afterStore]
  rcases (s.storeNext b).afterStoreWith_cases State.validate with
    ⟨hlt, heq⟩ | ⟨-, -, heq⟩ | ⟨h10, hfits, heq⟩ | ⟨hgt, hmore, heq⟩ | ⟨-, -, heq⟩
  · rw [State.storeNext_nbyte] at hlt
    exact heq ▸ (h.setLen_storeNext h3 b (n := s.len) (by omega)).emit _
  · exact heq ▸ State.inv_of_hunt h.capacity hcells rfl
  · rw [State.storeNext_nbyte] at h10
    exact heq ▸ (h.setLen_storeNext h3 b fun _ => ⟨rfl, hfits, by omega⟩).emit _
  · rw [State.storeNext_nbyte] at hgt hmore
    obtain ⟨hlen, hbound, -⟩ := h.lengthKnown (by omega)
    have hread : (s.storeNext b).memRead 8 2 = s.memRead 8 2 := State.memRead_storeNext b (by omega)
    exact heq ▸ (h.setLen_storeNext h3 b (n := s.len) fun _ => ⟨hread ▸ hlen, hbound, Nat.le_of_lt_succ hmore⟩).emit _
  · rw [heq, State.validate_of_hunt rfl]
    exact State.inv_of_hunt h.capacity hcells rfl

/-! ## Every transaction completes and keeps the invariants -/

/-- From an invariant state every transaction completes, in an invariant state: R28 (4) shuts out the one fault. -/
theorem State.Inv.exec {s : State} (h : s.Inv) (i : Instr) : ∃ t, exec i s = .next t ∧ t.Inv := by
  cases i with
  | nop => exact ⟨_, exec_nop s, h.emit _⟩
  | eoi => exact ⟨_, exec_eoi s, State.inv_of_hunt h.capacity h.cells rfl⟩
  | reset => exact ⟨_, exec_reset s, State.inv_of_hunt h.capacity (Memory.wf_nil _) rfl⟩
  | byte b =>
    by_cases h0 : s.nbyte = 0
    · exact ⟨_, execByte_of_hunt b h0, h.hunt h0 b⟩
    · exact ⟨_, execByte_of_accumulate b h0 h.nbyte_lt_size, h.accumulate (h.three_le h0) b⟩

theorem State.Inv.of_exec {s t : State} {i : Instr} (h : s.Inv) (hexec : Machine.exec i s = .next t) : t.Inv := by
  obtain ⟨u, hu, hinv⟩ := h.exec i
  obtain rfl : u = t := Host.Outcome.next.inj (hu.symm.trans hexec)
  exact hinv

/-! ## The obligations -/

/-- Settles O35: HUNT, with an empty buffer whose capacity is 32 and more. -/
theorem resetMeetsInvariants : Obligations.ResetMeetsInvariants := by
  unfold Obligations.ResetMeetsInvariants
  exact State.inv_of_hunt (Nat.le_add_left 32 _) (Memory.wf_nil _) rfl

/-- Settles O36: a step that answers has run a transaction, and every transaction keeps the invariants. -/
theorem everyStepKeepsInvariants : Obligations.EveryStepKeepsInvariants := by
  unfold Obligations.EveryStepKeepsInvariants
  intro s t hinv hstep
  rcases step_cases s with ⟨i, -, h⟩ | ⟨w, -, h⟩
  · exact hinv.takeInput.of_exec (h.symm.trans hstep)
  · cases h.symm.trans hstep

/-- Settles O15: power-on reset and the RESET transaction give the same values to `nbyte` and `win`. -/
theorem resetValues : Obligations.ResetValues := by
  unfold Obligations.ResetValues
  refine ⟨⟨rfl, rfl, rfl⟩, fun s t hexec => ?_⟩
  obtain rfl := Host.Outcome.next.inj ((exec_reset s).symm.trans hexec)
  exact ⟨rfl, rfl⟩

end Sys2Proof.Machine
end

section
/-! # Unspecified values reach no output (10_state.md R30) -/

namespace Sys2Proof.Machine

/-! ## What agreeing states read alike -/

theorem State.Agrees.memRead_eq {s t : State} (h : s.Agrees t) {a n : Nat} (hn : a + n ≤ s.nbyte) :
    s.memRead a n = t.memRead a n :=
  State.memRead_congr n fun k hk => h.bytes (a + k) (by omega)

theorem State.Agrees.bytes_eq {s t : State} (h : s.Agrees t) {n : Nat} (hn : n ≤ s.nbyte) : s.bytes n = t.bytes n :=
  State.bytes_congr fun i hi => h.bytes i (by omega)

/-- A complete frame: every field of its header and its trailer is among the bytes held (10_state.md R30). -/
theorem State.Agrees.verdict_eq {s t : State} (h : s.Agrees t) (hlong : 28 ≤ s.len) (hheld : s.len + 4 ≤ s.nbyte) :
    s.verdict = t.verdict := by
  have hlen : s.len = t.len := h.len (by omega)
  have hcrc : s.crcCalc = t.crcCalc := by
    rw [State.crcCalc, State.crcCalc, ← hlen, h.bytes_eq (by omega)]
  have htrailer : s.trailer = t.trailer := by
    rw [State.trailer, State.trailer, ← hlen, h.memRead_eq (by omega)]
  have hweek : s.week = t.week := by rw [State.week, State.week, h.memRead_eq (by omega)]
  have hbundle : s.frameBundle = t.frameBundle := by
    simp only [State.frameBundle, State.bodyLen, State.msgId, State.msgType, State.towMs, ← hlen, htrailer, hweek,
      h.memRead_eq (show 4 + 2 ≤ s.nbyte by omega), h.bytes 6 (by omega), h.memRead_eq (show 8 + 2 ≤ s.nbyte by omega),
      h.memRead_eq (show 16 + 4 ≤ s.nbyte by omega), h.bytes_eq (show s.len + trailerLen ≤ s.nbyte from hheld)]
  simp only [State.verdict, hcrc, htrailer, hweek, hbundle]

/-! ## Agreement is kept, with equal outputs -/

/-- Two states after a step: the step's outputs are equal, and the states agree again. -/
def State.AnswersAlike (s t : State) : Prop := s.lastOutput = t.lastOutput ∧ s.Agrees t

theorem State.Agrees.emit {s t : State} (h : s.Agrees t) (o : Output) : (s.emit o).AnswersAlike (t.emit o) :=
  ⟨rfl, h.nbyte, h.win, h.size, h.len, h.bytes⟩

theorem State.Agrees.setWin {s t : State} (h : s.Agrees t) {v w : Window} (hw : v = w) :
    (s.setWin v).Agrees (t.setWin w) :=
  ⟨h.nbyte, hw, h.size, h.len, h.bytes⟩

/-- In HUNT no byte and no length is held, so only the window and the capacity have to agree. -/
theorem State.setNbyte_zero_agrees {s t : State} (hwin : s.win = t.win) (hsize : s.buf.size = t.buf.size) :
    (s.setNbyte 0).Agrees (t.setNbyte 0) :=
  ⟨rfl, hwin, hsize, fun h10 => by simp at h10, fun i hi => by simp at hi⟩

theorem State.Agrees.openFrame {s t : State} (h : s.Agrees t) : s.openFrame.Agrees t.openFrame := by
  refine ⟨rfl, h.win, h.size, fun h10 => ?_, fun i hi => ?_⟩
  · simp at h10
  · obtain rfl | rfl | rfl : i = 0 ∨ i = 1 ∨ i = 2 := by rw [State.openFrame_nbyte] at hi; omega
    all_goals simp [State.readByte_openFrame]

theorem State.Agrees.hunt {s t : State} (h : s.Agrees t) (b : Byte) :
    (s.hunt b).AnswersAlike (t.hunt b) := by
  have hshift : s.win.shift b = t.win.shift b := by rw [h.win]
  by_cases hsync : s.win.shift b = Window.sync
  · rw [State.hunt_of_sync hsync, State.hunt_of_sync (hshift ▸ hsync)]
    exact (h.setWin hshift).openFrame.emit _
  · rw [State.hunt_of_no_sync hsync, State.hunt_of_no_sync (hshift ▸ hsync)]
    exact (h.setWin hshift).emit _

theorem State.Agrees.readByte_storeNext_eq {s t : State} (h : s.Agrees t) (b : Byte) {i : Nat} (hi : i < s.nbyte + 1) :
    (s.storeNext b).readByte i = (t.storeNext b).readByte i := by
  rw [State.readByte_storeNext, State.readByte_storeNext, ← h.nbyte]
  split
  · rfl
  · exact h.bytes i (by omega)

/-- Storing the same byte keeps agreement, with any values in `len` that agree once the length is known. -/
theorem State.Agrees.setLen_storeNext {s t : State} (h : s.Agrees t) (b : Byte) {m n : Nat}
    (hlen : 9 ≤ s.nbyte → m = n) : ((s.storeNext b).setLen m).Agrees ((t.storeNext b).setLen n) where
  nbyte := congrArg (· + 1) h.nbyte
  win := h.win
  size := h.size
  len h10 := hlen (Nat.le_of_succ_le_succ h10)
  bytes _ := h.readByte_storeNext_eq b

theorem State.Agrees.completeWith_validate {s t : State} (h : s.Agrees t) (hlong : 10 ≤ s.nbyte → 28 ≤ s.len) :
    (s.completeWith State.validate).AnswersAlike (t.completeWith State.validate) := by
  have hincomplete : s.incomplete = t.incomplete := by
    by_cases h10 : s.nbyte < 10
    · simp [State.incomplete, ← h.nbyte, h10]
    · simp [State.incomplete, ← h.nbyte, ← h.len (by omega)]
  rw [State.completeWith, State.completeWith, ← hincomplete]
  split
  case isTrue => exact h.emit _
  case isFalse hdone =>
    simp only [State.incomplete, decide_eq_true_eq, not_or, not_lt] at hdone
    obtain ⟨h10, hheld⟩ := hdone
    rw [State.validate_of_hunt rfl, State.validate_of_hunt rfl]
    have hverdict : (s.setNbyte 0).verdict = (t.setNbyte 0).verdict := h.verdict_eq (hlong h10) hheld
    exact hverdict ▸ (State.setNbyte_zero_agrees h.win h.size).emit _

/-- The rest of an ACCUMULATE step: on the tenth byte both states read the same length from bytes 8 and 9, later they hold
the same one. -/
theorem State.Agrees.accumulate {s t : State} (hs : s.Inv) (h : s.Agrees t) (b : Byte) :
    (s.storeNext b).afterStore.AnswersAlike (t.storeNext b).afterStore := by
  have hten : (s.storeNext b).nbyte = (t.storeNext b).nbyte := congrArg (· + 1) h.nbyte
  simp only [State.afterStore, State.afterStoreWith, ← hten]
  split
  case isTrue h10 =>
    rw [State.storeNext_nbyte] at h10
    have hread : (s.storeNext b).memRead 8 2 = (t.storeNext b).memRead 8 2 :=
      State.memRead_congr 2 fun k hk => h.readByte_storeNext_eq b (by omega)
    have hagree : (s.storeNext b).readLength.Agrees (t.storeNext b).readLength :=
      h.setLen_storeNext b fun _ => congrArg (headerLen + ·) hread
    have hlarge : (s.storeNext b).readLength.tooLarge = (t.storeNext b).readLength.tooLarge := by
      rw [State.tooLarge, State.tooLarge, hagree.size, hagree.len (Nat.le_of_eq h10.symm)]
    rw [← hlarge]
    split
    case isTrue => exact (State.setNbyte_zero_agrees hagree.win hagree.size).emit _
    case isFalse => exact hagree.completeWith_validate fun _ => Nat.le_add_right 28 _
  case isFalse hne =>
    rw [State.storeNext_nbyte] at hne
    have hagree : (s.storeNext b).Agrees (t.storeNext b) := h.setLen_storeNext b fun h9 => h.len (by omega)
    refine hagree.completeWith_validate fun h10 => ?_
    rw [State.storeNext_nbyte] at h10
    obtain ⟨hlen, -, -⟩ := hs.lengthKnown (by omega)
    rw [State.storeNext_len]
    omega

/-- Each transaction answers alike from agreeing invariant states. -/
theorem State.Agrees.exec {s t : State} (hs : s.Inv) (ht : t.Inv) (h : s.Agrees t) (i : Instr) :
    ∃ u v, exec i s = .next u ∧ exec i t = .next v ∧ u.AnswersAlike v := by
  cases i with
  | nop => exact ⟨_, _, exec_nop s, exec_nop t, h.emit _⟩
  | eoi => exact ⟨_, _, exec_eoi s, exec_eoi t, ((State.setNbyte_zero_agrees h.win h.size).setWin rfl).emit _⟩
  | reset =>
    have hagree : (s.forgetFrame.setNbyte 0).Agrees (t.forgetFrame.setNbyte 0) :=
      State.setNbyte_zero_agrees h.win h.size
    exact ⟨_, _, exec_reset s, exec_reset t, (hagree.setWin rfl).emit _⟩
  | byte b =>
    by_cases h0 : s.nbyte = 0
    · exact ⟨_, _, execByte_of_hunt b h0, execByte_of_hunt b (h.nbyte ▸ h0), h.hunt b⟩
    · exact ⟨_, _, execByte_of_accumulate b h0 hs.nbyte_lt_size,
        execByte_of_accumulate b (h.nbyte ▸ h0) ht.nbyte_lt_size, h.accumulate hs b⟩

/-! ## The obligation -/

/-- Settles O38, by induction on the transactions: each answers alike and leaves invariant states that agree. -/
theorem unspecifiedValuesReachNoOutput : Obligations.UnspecifiedValuesReachNoOutput := by
  unfold Obligations.UnspecifiedValuesReachNoOutput
  intro is
  induction is with
  | nil => exact fun s t _ _ h => ⟨[], s, t, rfl, rfl, h⟩
  | cons i is ih =>
    intro s t hs ht h
    obtain ⟨s', t', hexecs, hexect, hout, hagree⟩ := h.exec hs ht i
    obtain ⟨os, u, v, hfeeds, hfeedt, hend⟩ := ih s' t' (hs.of_exec hexecs) (ht.of_exec hexect) hagree
    exact ⟨s'.lastOutput :: os, u, v, feed_cons hexecs hfeeds, hout ▸ feed_cons hexect hfeedt, hend⟩

end Sys2Proof.Machine
end

section
/-! # MemRead is little-endian (20_memory.md R38, R39) -/

namespace Sys2Proof.Machine

/-- A one-byte read is that byte (20_memory.md R39). -/
theorem State.memRead_one (s : State) (a : Nat) : s.memRead a 1 = (s.readByte a).toNat := by
  simp [State.memRead]

/-- A read splits at any offset: the bytes at the higher addresses are the more significant ones (20_memory.md R39). -/
theorem State.memRead_add (s : State) (a m n : Nat) :
    s.memRead a (m + n) = s.memRead a m + 2 ^ (8 * m) * s.memRead (a + m) n := by
  induction n with
  | zero => rfl
  | succ n ih =>
    rw [← Nat.add_assoc]
    simp only [State.memRead, ih, Nat.mul_add, pow_add, Nat.add_assoc]
    ring

/-- A four-byte read (20_memory.md R38): two two-byte reads, the one at the lower address less significant. -/
theorem State.memRead_four (s : State) (a : Nat) :
    s.memRead a 4 = (s.readByte a).toNat + 2 ^ 8 * (s.readByte (a + 1)).toNat +
      2 ^ 16 * (s.readByte (a + 2)).toNat + 2 ^ 24 * (s.readByte (a + 3)).toNat := by
  have hsplit : s.memRead a 4 = s.memRead a 2 + 2 ^ 16 * s.memRead (a + 2) 2 := s.memRead_add a 2 2
  rw [hsplit, s.memRead_two a, s.memRead_two (a + 2)]
  ring

/-- Settles O34, one width at a time. -/
theorem memReadIsLittleEndian : Obligations.MemReadIsLittleEndian := by
  unfold Obligations.MemReadIsLittleEndian
  exact fun s a => ⟨s.memRead_one a, s.memRead_two a, s.memRead_four a⟩

end Sys2Proof.Machine
end

section
/-! # The 1024 words: what the decoder reads and what it refuses (30_encoding.md R53 to R55) -/

namespace Sys2Proof

/-- A word is its two fields (30_encoding.md R53). -/
theorem wordOf_opField_dataField (w : TWord) : wordOf (opField w) (dataField w) = w :=
  BitVec.extractLsb'_append_extractLsb'

/-- The transaction without operand that `op` selects, where `op` is not 01 (30_encoding.md R53). -/
def controlInstr (op : BitVec 2) : Instr :=
  if op = 0b00#2 then .nop else if op = 0b10#2 then .eoi else .reset

theorem encode_controlInstr {op : BitVec 2} (h : op ≠ 0b01#2) : encode (controlInstr op) = wordOf op 0x00#8 := by
  revert op; decide

/-- The decoder, by the two fields of the word: 256 BYTE words, one word for each control transaction, and the reserved
words (30_encoding.md R53, R55). -/
theorem decode_wordOf (op : BitVec 2) (data : Byte) :
    decode (wordOf op data) =
      if op = 0b01#2 then .ok (.byte data)
      else if data = 0x00#8 then .ok (controlInstr op)
      else .error (.reserved (wordOf op data)) := by
  simp only [decode, opField_wordOf, dataField_wordOf, noOperand, controlInstr, apply_ite Except.ok]
  split_ifs <;> rfl

theorem encode_of_decode {w : TWord} {i : Instr} (h : decode w = .ok i) : encode i = w := by
  rw [← wordOf_opField_dataField w] at h ⊢
  rw [decode_wordOf] at h
  split at h
  case isTrue hbyte =>
    obtain rfl := Except.ok.inj h
    rw [hbyte]
    rfl
  case isFalse hcontrol =>
    split at h
    case isTrue hzero =>
      obtain rfl := Except.ok.inj h
      rw [hzero, encode_controlInstr hcontrol]
    case isFalse => cases h

theorem decode_of_reserved {w : TWord} (hop : opField w ≠ 0b01#2) (hdata : dataField w ≠ 0x00#8) :
    decode w = .error (.reserved w) := by
  have h := decode_wordOf (opField w) (dataField w)
  rwa [if_neg hop, if_neg hdata, wordOf_opField_dataField] at h

/-! ## The words in blocks of 256, one for each `op` -/

theorem ofNat_eq_wordOf (op : BitVec 2) {d : Nat} (hd : d < 256) :
    BitVec.ofNat 10 (256 * op.toNat + d) = wordOf op (BitVec.ofNat 8 d) := by
  have hop := op.isLt
  have hand : op.toNat <<< 8 + d = op.toNat <<< 8 ||| d := Nat.shiftLeft_add_eq_or_of_lt hd _
  apply BitVec.eq_of_toNat_eq
  rw [BitVec.toNat_ofNat, wordOf, BitVec.toNat_append, BitVec.toNat_ofNat, Nat.mod_eq_of_lt hd, ← hand,
    Nat.shiftLeft_eq]
  omega

/-- What the decoder reads from the 256 words of one `op`, in order. -/
def decodedBlock (op : BitVec 2) : List (Except DecodeError Instr) :=
  (List.range 256).map fun d => decode (wordOf op (BitVec.ofNat 8 d))

theorem decodedBlock_byte :
    decodedBlock 0b01#2 = (List.range 256).map fun d => .ok (.byte (BitVec.ofNat 8 d)) :=
  List.map_congr_left fun _ _ => decode_wordOf _ _

/-- Every word of a control `op` but its first is reserved (30_encoding.md R55). -/
theorem decodedBlock_control {op : BitVec 2} (hop : op ≠ 0b01#2) :
    decodedBlock op = .ok (controlInstr op) ::
      (List.range 255).map fun d => .error (.reserved (wordOf op (BitVec.ofNat 8 (d + 1)))) := by
  rw [decodedBlock, List.range_succ_eq_map, List.map_cons, List.map_map]
  congr 1
  · rw [decode_wordOf, if_neg hop, if_pos rfl]
  · refine List.map_congr_left fun d hd => ?_
    have hd : d < 255 := List.mem_range.1 hd
    have hdata : BitVec.ofNat 8 (d + 1) ≠ 0x00#8 := fun h => by
      have := congrArg BitVec.toNat h
      simp at this
      omega
    rw [Function.comp_apply, decode_wordOf, if_neg hop, if_neg hdata]

/-- The 1024 words in order are the four blocks in order. -/
theorem map_decode_range : ((List.range 1024).map fun n => decode (BitVec.ofNat 10 n)) =
    decodedBlock 0b00#2 ++ decodedBlock 0b01#2 ++ decodedBlock 0b10#2 ++ decodedBlock 0b11#2 := by
  have hblock (op : BitVec 2) :
      ((List.range 256).map fun d => decode (BitVec.ofNat 10 (256 * op.toNat + d))) = decodedBlock op :=
    List.map_congr_left fun d hd => congrArg decode (ofNat_eq_wordOf op (List.mem_range.1 hd))
  have hsplit : List.range 1024 = List.range 256 ++ (List.range 256).map (256 + ·) ++
      (List.range 256).map (512 + ·) ++ (List.range 256).map (768 + ·) := by
    rw [← List.range_add, ← List.range_add, ← List.range_add]
  rw [hsplit, ← hblock, ← hblock, ← hblock, ← hblock]
  simp [Function.comp_def]

end Sys2Proof

namespace Sys2Proof.Machine

theorem step_of_reserved {s : State} {w : TWord} (h : decode s.nextWord = .error (.reserved w)) :
    step s = .refused (.reservedWord w) := by
  rw [step, h]

/-! ## The obligations -/

/-- Settles O2: the decoder reads back what the encoder writes, and every word it reads is the encoder's. -/
theorem decodeAndEncodeAgree : Obligations.DecodeAndEncodeAgree := by
  unfold Obligations.DecodeAndEncodeAgree
  exact ⟨decode_encode, fun _ _ => encode_of_decode⟩

/-- Settles O1: nine words, evaluated. -/
theorem sampleWordsDecode : Obligations.SampleWordsDecode := by
  unfold Obligations.SampleWordsDecode
  decide

/-- Settles O3: three blocks of one control word and 255 reserved words, and one of 256 BYTE words. -/
theorem reservedWordsAreRefused : Obligations.ReservedWordsAreRefused := by
  unfold Obligations.ReservedWordsAreRefused
  refine ⟨fun s hop hdata => step_of_reserved (decode_of_reserved hop hdata), ?_⟩
  rw [map_decode_range, decodedBlock_byte, decodedBlock_control (by decide), decodedBlock_control (by decide),
    decodedBlock_control (by decide)]
  simp [Function.comp_def, controlInstr]

end Sys2Proof.Machine
end

section
/-! # The output of a transaction (30_encoding.md R56 to R59) -/

namespace Sys2Proof.Machine

/-! ## What a transaction can output, and when -/

/-- The outputs that a transaction can leave in the state `u`: a bundle only of a frame that passed both checks of
Validate() (42_crc_validator.md R89, R91). -/
inductive State.MayOutput (u : State) : Output → Prop
  | quiet : u.MayOutput Output.quiet
  | endOfFile : u.MayOutput Output.endOfFile
  | error {c : Cause} (hc : c ≠ .none) : u.MayOutput (Output.error c)
  | accepted (htrailer : u.crcCalc = u.trailer) (hweek : u.week ≠ 0#16) : u.MayOutput (Output.accepted u.frameBundle)

theorem State.mayOutput_verdict (u : State) : u.MayOutput u.verdict := by
  unfold State.verdict
  split_ifs with hcrc hweek
  · exact .error (by decide)
  · exact .error (by decide)
  · exact .accepted (not_not.1 hcrc) hweek

/-- A step that ends by an output: the state that it leaves beside the output, and the output it can have there. -/
def State.Emits (t : State) : Prop := ∃ (u : State) (o : Output), t = u.emit o ∧ u.MayOutput o

theorem State.emits_quiet (u : State) : (u.emit Output.quiet).Emits := ⟨u, _, rfl, .quiet⟩

theorem State.hunt_emits (s : State) (b : Byte) : (s.hunt b).Emits := State.emits_quiet _

/-- The five ways an ACCUMULATE step ends (41_framer.md R73): only the last two give an output other than NONE. -/
theorem State.afterStore_emits (s : State) : s.afterStore.Emits := by
  rw [State.afterStore]
  rcases s.afterStoreWith_cases State.validate with ⟨-, h⟩ | ⟨-, -, h⟩ | ⟨-, -, h⟩ | ⟨-, -, h⟩ | ⟨-, -, h⟩
  · exact h ▸ State.emits_quiet _
  · exact h ▸ ⟨_, _, rfl, .error (by decide)⟩
  · exact h ▸ State.emits_quiet _
  · exact h ▸ State.emits_quiet _
  · rw [h, State.validate_of_hunt rfl]
    exact ⟨_, _, rfl, State.mayOutput_verdict _⟩

/-- Every transaction that completes ends by an output. -/
theorem exec_emits {i : Instr} {s t : State} (h : exec i s = .next t) : t.Emits := by
  cases i with
  | nop => exact Host.Outcome.next.inj h ▸ State.emits_quiet _
  | eoi => exact Host.Outcome.next.inj h ▸ ⟨_, _, rfl, .endOfFile⟩
  | reset => exact Host.Outcome.next.inj h ▸ State.emits_quiet _
  | byte b =>
    rcases execByte_cases b s with ⟨-, hexec⟩ | ⟨-, -, hexec⟩ | ⟨-, -, hexec⟩
    · exact Host.Outcome.next.inj (hexec.symm.trans h) ▸ s.hunt_emits b
    · exact Host.Outcome.next.inj (hexec.symm.trans h) ▸ State.afterStore_emits _
    · cases hexec.symm.trans h

/-- A cause exactly with ERR, and a bundle exactly with ACCEPT (30_encoding.md R57, R58). -/
theorem State.MayOutput.legal {u : State} {o : Output} (h : u.MayOutput o) : o.legal := by
  cases h with
  | error hc => simp [Output.legal, Output.error, hc]
  | _ => simp [Output.legal, Output.quiet, Output.endOfFile, Output.accepted]

/-- A bundle is that of the frame in the buffer, which passed both checks. -/
theorem State.MayOutput.of_bundle {u : State} {o : Output} {f : Bundle} (h : u.MayOutput o) (hf : o.bundle = some f) :
    u.crcCalc = u.trailer ∧ u.week ≠ 0#16 ∧ f = u.frameBundle := by
  cases h with
  | accepted htrailer hweek => exact ⟨htrailer, hweek, (Option.some.inj hf).symm⟩
  | _ => cases hf

/-! ## The fields of a bundle as numbers (30_encoding.md R59) -/

/-- A field of `w = 8 * n` bits holds all that an n-byte read gives: it is zero-extended, never cut. -/
theorem State.toNat_ofNat_memRead (s : State) (a n : Nat) :
    (BitVec.ofNat (8 * n) (s.memRead a n)).toNat = s.memRead a n :=
  (BitVec.toNat_ofNat _ _).trans (Nat.mod_eq_of_lt (s.memRead_lt a n))

theorem State.msgType_toNat (s : State) : s.msgType.toNat = (s.readByte 6).toNat / 16 % 4 := by
  rw [State.msgType, BitVec.extractLsb'_toNat, Nat.shiftRight_eq_div_pow]

/-! ## The obligations -/

/-- Settles O6: the codes, evaluated. -/
theorem statusAndCauseCodes : Obligations.StatusAndCauseCodes := by
  unfold Obligations.StatusAndCauseCodes
  decide

/-- Settles O7: a transaction that completes ends by one of four outputs, each of them legal. -/
theorem everyTransactionHasOneOutput : Obligations.EveryTransactionHasOneOutput := by
  unfold Obligations.EveryTransactionHasOneOutput
  intro i s t hexec
  obtain ⟨u, o, rfl, hout⟩ := exec_emits hexec
  exact ⟨o, u.emit_out o, hout.legal⟩

/-- Settles O27: the bundle is read from the state that the accepting step leaves, after both checks have passed. -/
theorem acceptedBundleHoldsFields : Obligations.AcceptedBundleHoldsFields := by
  unfold Obligations.AcceptedBundleHoldsFields
  intro i s t f hexec hbundle
  obtain ⟨u, o, rfl, hout⟩ := exec_emits hexec
  obtain ⟨htrailer, hweek, rfl⟩ := hout.of_bundle hbundle
  exact ⟨rfl, u.toNat_ofNat_memRead 8 2, u.toNat_ofNat_memRead 4 2, u.msgType_toNat, u.toNat_ofNat_memRead 14 2, hweek,
    u.toNat_ofNat_memRead 16 4, u.toNat_ofNat_memRead u.len 4, htrailer.symm, rfl⟩

end Sys2Proof.Machine
end

section
/-! # The text of a transaction (30_encoding.md R60) -/

namespace Sys2Proof.Machine

/-- A hexadecimal digit ends no token and starts no comment. -/
theorem digitChar_ne_separator : ∀ n < 16, digitChar n ≠ ';' ∧ digitChar n ≠ ' ' ∧ digitChar n ≠ '\t' ∧
    digitChar n ≠ '\r' := by
  decide

theorem hexByte_digitChar (b : Byte) : hexByte [digitChar (b.toNat / 16), digitChar (b.toNat % 16)] = some b := by
  have hhigh : b.toNat / 16 < 16 := Nat.div_lt_of_lt_mul b.isLt
  have hlow : b.toNat % 16 < 16 := Nat.mod_lt _ (by decide)
  simp only [hexByte, (hexDigit_digitChar _ hhigh).1, (hexDigit_digitChar _ hlow).1, Nat.div_add_mod,
    BitVec.ofNat_toNat, BitVec.setWidth_eq]

/-- The two tokens of a BYTE line. -/
theorem lineTokens_instrText_byte (b : Byte) : lineTokens (instrText (.byte b)) =
    [['B', 'Y', 'T', 'E'], ['0', 'x', digitChar (b.toNat / 16), digitChar (b.toNat % 16)]] := by
  obtain ⟨hcomment₁, hspace₁, htab₁, hreturn₁⟩ :=
    digitChar_ne_separator (b.toNat / 16) (Nat.div_lt_of_lt_mul b.isLt)
  obtain ⟨hcomment₀, hspace₀, htab₀, hreturn₀⟩ :=
    digitChar_ne_separator (b.toNat % 16) (Nat.mod_lt _ (by decide))
  simp [lineTokens, instrText, tokensFrom, *]

theorem parseLine_instrText_byte (b : Byte) : parseLine (instrText (.byte b)) = some [.plain (.byte b)] := by
  rw [parseLine, lineTokens_instrText_byte]
  simp [hexByte_digitChar]

/-- Settles O4: the three fixed texts are evaluated, and the two digits of a BYTE read back as its byte. -/
theorem lineTextReadsBack : Obligations.LineTextReadsBack := by
  unfold Obligations.LineTextReadsBack
  intro i
  cases i with
  | byte b => exact parseLine_instrText_byte b
  | nop => decide
  | eoi => decide
  | reset => decide

end Sys2Proof.Machine
end

section
/-! # The wire format of a frame, and the frame that FRAME builds (30_encoding.md R48 to R52, R62) -/

namespace Sys2Proof.Machine

/-! ## Bytes and fields of a byte sequence -/

theorem Wire.byteAt_append_left {p : List Byte} (q : List Byte) {i : Nat} (hi : i < p.length) :
    Wire.byteAt (p ++ q) i = Wire.byteAt p i :=
  List.getD_append _ _ _ _ hi

theorem Wire.byteAt_append_right (p q : List Byte) (i : Nat) :
    Wire.byteAt (p ++ q) (p.length + i) = Wire.byteAt q i := by
  rw [Wire.byteAt, List.getD_append_right _ _ _ _ (Nat.le_add_right _ _), Nat.add_sub_cancel_left, Wire.byteAt]

@[simp] theorem Wire.leBytes_length (n v : Nat) : (Wire.leBytes n v).length = n := by simp [Wire.leBytes]

theorem Wire.byteAt_leBytes {n k : Nat} (v : Nat) (hk : k < n) :
    Wire.byteAt (Wire.leBytes n v) k = BitVec.ofNat 8 (v / 2 ^ (8 * k)) := by
  simp [Wire.byteAt, Wire.leBytes, hk]

/-- A field whose bytes are those of a number, least significant first, reads back as the number (20_memory.md R38). -/
theorem Wire.field_of_leBytes {f : List Byte} {a n v : Nat}
    (h : ∀ k, k < n → Wire.byteAt f (a + k) = BitVec.ofNat 8 (v / 2 ^ (8 * k))) :
    Wire.field f a n = v % 2 ^ (8 * n) := by
  induction n with
  | zero => simp [Wire.field, Nat.mod_one]
  | succ n ih =>
    rw [Wire.field, ih fun k hk => h k (by omega), h n (by omega), BitVec.toNat_ofNat, Nat.mul_succ, pow_add,
      Nat.mod_mul, Nat.mul_comm (2 ^ (8 * n))]

/-- A number below the field's width reads back as it is: zero-extended, never cut (30_encoding.md R59). -/
theorem Wire.field_of_leBytes_of_lt {f : List Byte} {a n v : Nat} (hv : v < 2 ^ (8 * n))
    (h : ∀ k, k < n → Wire.byteAt f (a + k) = BitVec.ofNat 8 (v / 2 ^ (8 * k))) : Wire.field f a n = v :=
  (Wire.field_of_leBytes h).trans (Nat.mod_eq_of_lt hv)

/-! ## The frame that FRAME builds (30_encoding.md R62) -/

theorem Wire.header_length (a : FrameArgs) : (Wire.header a).length = 28 := rfl

theorem Wire.frameOf_length (a : FrameArgs) : (Wire.frameOf a).length = 32 + a.body.length := by
  simp only [Wire.frameOf, List.length_append, Wire.header_length, Wire.leBytes_length]
  omega

/-- The header is the first 28 bytes of the frame. -/
theorem Wire.byteAt_frameOf (a : FrameArgs) {i : Nat} (hi : i < 28) :
    Wire.byteAt (Wire.frameOf a) i = Wire.byteAt (Wire.header a) i := by
  rw [Wire.frameOf, List.append_assoc, Wire.byteAt_append_left _ hi]

theorem Wire.field_frameOf {a : FrameArgs} {i n v : Nat} (hi : i + n ≤ 28) (hv : v < 2 ^ (8 * n))
    (h : ∀ k, k < n → Wire.byteAt (Wire.header a) (i + k) = BitVec.ofNat 8 (v / 2 ^ (8 * k))) :
    Wire.field (Wire.frameOf a) i n = v :=
  Wire.field_of_leBytes_of_lt hv fun k hk => (Wire.byteAt_frameOf a (by omega)).trans (h k hk)

theorem Wire.frameOf_msgId (a : FrameArgs) : Wire.field (Wire.frameOf a) 4 2 = a.msgId.toNat :=
  Wire.field_frameOf (by decide) a.msgId.isLt fun k hk => by interval_cases k <;> rfl

theorem Wire.frameOf_week (a : FrameArgs) : Wire.week (Wire.frameOf a) = a.week.toNat :=
  Wire.field_frameOf (by decide) a.week.isLt fun k hk => by interval_cases k <;> rfl

theorem Wire.frameOf_towMs (a : FrameArgs) : Wire.field (Wire.frameOf a) 16 4 = a.towMs.toNat :=
  Wire.field_frameOf (by decide) a.towMs.isLt fun k hk => by interval_cases k <;> rfl

theorem Wire.byteAt_frameOf_six (a : FrameArgs) : Wire.byteAt (Wire.frameOf a) 6 = a.msgType.setWidth 8 <<< 4 :=
  Wire.byteAt_frameOf a (by decide)

/-- The bytes of the header that R50 does not describe. -/
theorem Wire.byteAt_frameOf_zero (a : FrameArgs) :
    ∀ i ∈ [3, 7, 10, 11, 12, 13, 20, 21, 22, 23, 24, 25, 26, 27], Wire.byteAt (Wire.frameOf a) i = 0x00#8 := by
  intro i hi
  fin_cases hi <;> exact Wire.byteAt_frameOf a (by decide)

/-- Byte 6 holds the type in bits 5:4 and nothing else. -/
theorem Wire.typeByte_toNat (t : BitVec 2) : (t.setWidth 8 <<< 4 : Byte).toNat = 16 * t.toNat := by
  revert t; decide

theorem Wire.typeByte_field (t : BitVec 2) : (t.setWidth 8 <<< 4 : Byte).extractLsb' 4 2 = t := by
  revert t; decide

/-- The covered bytes are the header and the body. -/
theorem Wire.frameOf_take (a : FrameArgs) :
    (Wire.frameOf a).take (28 + a.body.length) = Wire.header a ++ a.body :=
  List.take_left' (by rw [List.length_append, Wire.header_length])

theorem Wire.frameOf_trailer (a : FrameArgs) :
    Wire.field (Wire.frameOf a) (28 + a.body.length) 4 = (crc32 (Wire.header a ++ a.body)).toNat := by
  have hlength : (Wire.header a ++ a.body).length = 28 + a.body.length := by
    rw [List.length_append, Wire.header_length]
  refine Wire.field_of_leBytes_of_lt (BitVec.isLt _) fun k hk => ?_
  rw [Wire.frameOf, ← hlength, Wire.byteAt_append_right, Wire.byteAt_leBytes _ hk]

section WellFormed

variable {a : FrameArgs} (h : a.wf = true)
include h

theorem Wire.frameOf_bodyLen : Wire.bodyLen (Wire.frameOf a) = a.body.length :=
  Wire.field_frameOf (by decide) (Nat.lt_succ_of_le (of_decide_eq_true h)) fun k hk => by interval_cases k <;> rfl

theorem Wire.frameOf_frameSize : Wire.frameSize (Wire.frameOf a) = 28 + a.body.length :=
  congrArg (28 + ·) (Wire.frameOf_bodyLen h)

theorem Wire.frameOf_isFrame : Wire.isFrame (Wire.frameOf a) := by
  refine ⟨rfl, ?_⟩
  rw [Wire.frameOf_length, Wire.frameOf_frameSize h, trailerLen]
  omega

theorem Wire.frameOf_trailerOk : Wire.trailerOk (Wire.frameOf a) := by
  rw [Wire.trailerOk, Wire.frameOf_frameSize h, Wire.frameOf_trailer, Wire.frameOf_take]

theorem Wire.bundle_frameOf : Wire.bundle (Wire.frameOf a) =
    ⟨BitVec.ofNat 17 (28 + a.body.length), BitVec.ofNat 16 a.body.length, a.msgId, a.msgType, a.week, a.towMs,
      crc32 ((Wire.frameOf a).take (28 + a.body.length)), Wire.frameOf a⟩ := by
  simp only [Wire.bundle, Wire.frameOf_frameSize h, Wire.frameOf_bodyLen h, Wire.frameOf_msgId, Wire.byteAt_frameOf_six,
    Wire.typeByte_field, Wire.frameOf_week, Wire.frameOf_towMs, Wire.frameOf_trailer, Wire.frameOf_take,
    BitVec.ofNat_toNat, BitVec.setWidth_eq]

end WellFormed

/-! ## The obligation -/

/-- Settles O5: each field of the frame reads back as the argument that was written there. -/
theorem framePseudoBuildsFrame : Obligations.FramePseudoBuildsFrame := by
  unfold Obligations.FramePseudoBuildsFrame
  intro a h
  have hbody : ((Wire.frameOf a).drop 28).take a.body.length = a.body := by
    rw [Wire.frameOf, List.append_assoc, List.drop_left' (Wire.header_length a), List.take_left]
  have htype : (Wire.byteAt (Wire.frameOf a) 6).toNat = 16 * a.msgType.toNat := by
    rw [Wire.byteAt_frameOf_six, Wire.typeByte_toNat]
  exact ⟨Wire.frameOf a, rfl, Wire.frameOf_length a, Wire.frameOf_isFrame h, Wire.frameOf_trailerOk h, hbody, htype,
    Wire.byteAt_frameOf_zero a, Wire.bundle_frameOf h⟩

end Sys2Proof.Machine
end

section
/-! # The run of a whole frame from HUNT (41_framer.md R73, R81; 42_crc_validator.md R85 to R91) -/

namespace Sys2Proof.Machine

/-! ## A frame and the buffer that holds it -/

theorem Wire.take_succ {f : List Byte} {k : Nat} (hk : k < f.length) :
    f.take (k + 1) = f.take k ++ [Wire.byteAt f k] := by
  rw [Wire.byteAt, List.getD_eq_getElem _ _ hk, List.take_append_getElem hk]

theorem Wire.frameSize_eq (f : List Byte) : Wire.frameSize f = 28 + Wire.bodyLen f := rfl

theorem Wire.length_of_isFrame {f : List Byte} (hf : Wire.isFrame f) : f.length = Wire.frameSize f + 4 := hf.2

theorem Wire.byteAt_of_isFrame {f : List Byte} (hf : Wire.isFrame f) {i : Nat} (hi : i < 3) :
    Wire.byteAt f i = Wire.byteAt syncBytes i := by
  have hsplit : f = syncBytes ++ f.drop 3 := by rw [← hf.1, List.take_append_drop]
  rw [hsplit]
  exact Wire.byteAt_append_left _ hi

theorem State.memRead_eq_field {s : State} {f : List Byte} {a : Nat} (n : Nat)
    (h : ∀ k, k < n → s.readByte (a + k) = Wire.byteAt f (a + k)) : s.memRead a n = Wire.field f a n := by
  induction n with
  | zero => rfl
  | succ n ih => rw [State.memRead, Wire.field, ih fun k hk => h k (by omega), h n (by omega)]

theorem State.bytes_eq_take {s : State} {f : List Byte} {n : Nat} (hn : n ≤ f.length)
    (h : ∀ i, i < n → s.readByte i = Wire.byteAt f i) : s.bytes n = f.take n := by
  induction n with
  | zero => rfl
  | succ n ih => rw [State.bytes_succ, ih (by omega) fun i hi => h i (by omega), h n (by omega), Wire.take_succ hn]

/-! ## The verdict on a complete frame -/

/-- The output of the last byte of a frame that fits (42_crc_validator.md R86, R88, R89, R91). -/
def Wire.verdict (f : List Byte) : Output :=
  if ¬ Wire.trailerOk f then Output.error .crc
  else if Wire.week f = 0 then Output.error .week
  else Output.accepted (Wire.bundle f)

theorem State.crcCalc_eq_trailer_iff (s : State) :
    s.crcCalc = s.trailer ↔ s.memRead s.len 4 = (crc32 (s.bytes s.len)).toNat := by
  rw [State.crcCalc, BitVec.toNat_eq, State.trailer, s.toNat_ofNat_memRead s.len 4, eq_comm]

theorem State.week_eq_zero_iff (s : State) : s.week = 0#16 ↔ s.memRead 14 2 = 0 := by
  rw [State.week, BitVec.toNat_eq, s.toNat_ofNat_memRead 14 2]
  rfl

/-- The checks and the bundle read a frame in the buffer as the wire format does. -/
theorem State.verdict_eq_wire {s : State} {f : List Byte} (hf : Wire.isFrame f) (hlen : s.len = Wire.frameSize f)
    (h : ∀ i, i < f.length → s.readByte i = Wire.byteAt f i) : s.verdict = Wire.verdict f := by
  have hlength := Wire.length_of_isFrame hf
  have hsize := Wire.frameSize_eq f
  have hfield {a n : Nat} (han : a + n ≤ f.length) : s.memRead a n = Wire.field f a n :=
    State.memRead_eq_field n fun k hk => h (a + k) (by omega)
  have hweek : s.memRead 14 2 = Wire.week f := hfield (by omega)
  have htrailer : s.memRead (Wire.frameSize f) 4 = Wire.field f (Wire.frameSize f) 4 := hfield (by omega)
  have hcovered : s.bytes (Wire.frameSize f) = f.take (Wire.frameSize f) :=
    State.bytes_eq_take (by omega) fun i hi => h i (by omega)
  have hwhole : s.bytes (Wire.frameSize f + trailerLen) = f := by
    rw [← hf.2, State.bytes_eq_take le_rfl h, List.take_length]
  have hbundle : s.frameBundle = Wire.bundle f := by
    simp only [State.frameBundle, State.bodyLen, State.msgId, State.msgType, State.week, State.towMs, State.trailer,
      Wire.bundle, hlen, hwhole, htrailer, hweek, h 6 (by omega), hfield (show 4 + 2 ≤ f.length by omega),
      hfield (show 8 + 2 ≤ f.length by omega), hfield (show 16 + 4 ≤ f.length by omega), Wire.bodyLen]
  simp only [State.verdict, Wire.verdict, ne_eq, s.crcCalc_eq_trailer_iff, s.week_eq_zero_iff, hlen, htrailer, hcovered,
    hweek, hbundle, Wire.trailerOk]

/-! ## The bytes of a frame one by one -/

/-- The block has taken the first `k` bytes of a frame that fits in its buffer. -/
structure State.Holds (s : State) (f : List Byte) (k : Nat) : Prop where
  inv   : s.Inv
  fits  : f.length ≤ s.buf.size
  nbyte : s.nbyte = k
  bytes : ∀ i, i < k → s.readByte i = Wire.byteAt f i

theorem State.Holds.exec_byte {s : State} {f : List Byte} {k : Nat} (h : s.Holds f k) (h3 : 3 ≤ k) (b : Byte) :
    exec (.byte b) s = .next (s.storeNext b).afterStore := by
  have h0 : s.nbyte ≠ 0 := by rw [h.nbyte]; omega
  exact execByte_of_accumulate b h0 h.inv.nbyte_lt_size

theorem State.Holds.len_eq {s : State} {f : List Byte} {k : Nat} (h : s.Holds f k) (hk : 10 ≤ k) :
    s.len = Wire.frameSize f := by
  obtain ⟨hlen, -, -⟩ := h.inv.lengthKnown (h.nbyte ▸ hk)
  rw [hlen, State.memRead_eq_field 2 fun i hi => h.bytes _ (by omega)]
  rfl

theorem State.Holds.readByte_storeNext {s : State} {f : List Byte} {k : Nat} (h : s.Holds f k) {i : Nat}
    (hi : i < k + 1) : (s.storeNext (Wire.byteAt f k)).readByte i = Wire.byteAt f i := by
  rw [State.readByte_storeNext, h.nbyte]
  split_ifs with hik
  · rw [hik]
  · exact h.bytes i (by omega)

/-- Before the last byte: the length check passes and the frame is not complete (41_framer.md R73). -/
theorem State.Holds.afterStore_quiet {s : State} {f : List Byte} {k : Nat} (h : s.Holds f k) (hf : Wire.isFrame f)
    (hk : k + 1 < f.length) :
    ∃ u : State, (s.storeNext (Wire.byteAt f k)).afterStore = u.emit Output.quiet ∧ u.nbyte = k + 1 := by
  have hfits := h.fits
  have hlength := Wire.length_of_isFrame hf
  have hsize := Wire.frameSize_eq f
  have hnbyte : (s.storeNext (Wire.byteAt f k)).nbyte = k + 1 := congrArg (· + 1) h.nbyte
  rw [State.afterStore]
  rcases (s.storeNext (Wire.byteAt f k)).afterStoreWith_cases State.validate with
    ⟨-, heq⟩ | ⟨h10, hlarge, -⟩ | ⟨-, -, heq⟩ | ⟨-, -, heq⟩ | ⟨h10, hdone, -⟩
  · exact ⟨_, heq, hnbyte⟩
  · have hread : (s.storeNext (Wire.byteAt f k)).memRead 8 2 = Wire.bodyLen f :=
      State.memRead_eq_field 2 fun i hi => h.readByte_storeNext (by omega)
    rw [State.storeNext_size, hread] at hlarge
    omega
  · exact ⟨_, heq, hnbyte⟩
  · exact ⟨_, heq, hnbyte⟩
  · rw [State.storeNext_len, h.len_eq (by omega)] at hdone
    omega

/-- The last byte completes the frame (41_framer.md R73, R76). -/
theorem State.Holds.afterStore_verdict {s : State} {f : List Byte} {k : Nat} (h : s.Holds f k) (hf : Wire.isFrame f)
    (hk : k + 1 = f.length) : (s.storeNext (Wire.byteAt f k)).afterStore =
      ((s.storeNext (Wire.byteAt f k)).setNbyte 0).emit (Wire.verdict f) := by
  have hlength := Wire.length_of_isFrame hf
  have hsize := Wire.frameSize_eq f
  have hlen : s.len = Wire.frameSize f := h.len_eq (by omega)
  have hnbyte : (s.storeNext (Wire.byteAt f k)).nbyte = k + 1 := congrArg (· + 1) h.nbyte
  rw [State.afterStore]
  rcases (s.storeNext (Wire.byteAt f k)).afterStoreWith_cases State.validate with
    ⟨hlt, -⟩ | ⟨h10, -⟩ | ⟨h10, -⟩ | ⟨-, hmore, -⟩ | ⟨-, -, heq⟩
  · omega
  · omega
  · omega
  · rw [State.storeNext_len, hlen] at hmore
    omega
  · have hverdict : ((s.storeNext (Wire.byteAt f k)).setNbyte 0).verdict = Wire.verdict f :=
      State.verdict_eq_wire hf hlen fun i hi => h.readByte_storeNext (by omega)
    rw [heq, State.validate_of_hunt rfl, hverdict]

theorem State.Holds.next {s : State} {f : List Byte} {k : Nat} (h : s.Holds f k) (hf : Wire.isFrame f) (h3 : 3 ≤ k)
    (hk : k + 1 < f.length) :
    ∃ t, exec (.byte (Wire.byteAt f k)) s = .next t ∧ t.lastOutput = Output.quiet ∧ t.Holds f (k + 1) := by
  have hexec := h.exec_byte h3 (Wire.byteAt f k)
  obtain ⟨u, hemit, hu⟩ := h.afterStore_quiet hf hk
  refine ⟨_, hexec, by rw [hemit, State.lastOutput_emit], h.inv.of_exec hexec, ?_, by rw [hemit]; exact hu, ?_⟩
  · rw [State.afterStore_buf]
    exact h.fits
  · intro i hi
    rw [State.readByte_afterStore, h.readByte_storeNext hi]

/-- The last byte of the frame gives the verdict, and HUNT again with the frame in the buffer. -/
theorem State.Holds.last {s : State} {f : List Byte} {k : Nat} (h : s.Holds f k) (hf : Wire.isFrame f)
    (h3 : 3 ≤ k) (hk : k + 1 = f.length) :
    ∃ t, exec (.byte (Wire.byteAt f k)) s = .next t ∧ t.lastOutput = Wire.verdict f ∧ t.Inv ∧ t.nbyte = 0 ∧
      t.bytes f.length = f := by
  have hexec := h.exec_byte h3 (Wire.byteAt f k)
  have hverdict := h.afterStore_verdict hf hk
  refine ⟨_, hexec, by rw [hverdict, State.lastOutput_emit], h.inv.of_exec hexec, by rw [hverdict]; rfl, ?_⟩
  rw [State.bytes_eq_take le_rfl fun i hi => (State.readByte_afterStore _ i).trans (h.readByte_storeNext (by omega)),
    List.take_length]

/-! ## The sync bytes -/

@[simp] theorem State.hunt_win (s : State) (b : Byte) : (s.hunt b).win = s.win.shift b := by
  rcases s.hunt_cases b with ⟨-, h⟩ | ⟨-, h⟩ <;> simp [h]

@[simp] theorem State.lastOutput_hunt (s : State) (b : Byte) : (s.hunt b).lastOutput = Output.quiet := rfl

theorem State.hunt_nbyte_of_sync {s : State} {b : Byte} (h : s.win.shift b = Window.sync) : (s.hunt b).nbyte = 3 := by
  rw [State.hunt_of_sync h]
  rfl

theorem State.hunt_nbyte_of_no_sync {s : State} {b : Byte} (h : s.win.shift b ≠ Window.sync) :
    (s.hunt b).nbyte = s.nbyte := by
  rw [State.hunt_of_no_sync h]
  rfl

theorem exec_byte_of_hunt {s : State} (b : Byte) (h : s.nbyte = 0) : exec (.byte b) s = .next (s.hunt b) :=
  execByte_of_hunt b h

/-- From HUNT, whatever the window holds, the third sync byte opens the frame (40_sync.md R70). -/
theorem State.Inv.feedBytes_sync {s : State} (h : s.Inv) (h0 : s.nbyte = 0) :
    ∃ t, feedBytes syncBytes s = .next (List.replicate 3 Output.quiet, t) ∧ t.Inv ∧ t.nbyte = 3 ∧
      t.buf.size = s.buf.size := by
  have h₁ : (s.hunt sync0).nbyte = 0 := by
    rw [State.hunt_nbyte_of_no_sync (by simp [Window.shift, Window.sync, sync0, sync2]), h0]
  have h₂ : ((s.hunt sync0).hunt sync1).nbyte = 0 := by
    rw [State.hunt_nbyte_of_no_sync (by simp [Window.shift, Window.sync, sync1, sync2]), h₁]
  have h₃ : (((s.hunt sync0).hunt sync1).hunt sync2).nbyte = 3 :=
    State.hunt_nbyte_of_sync (by simp [Window.shift, Window.sync])
  exact ⟨_, feed_cons (exec_byte_of_hunt _ h0) (feed_cons (exec_byte_of_hunt _ h₁)
      (feed_cons (exec_byte_of_hunt _ h₂) rfl)),
    ((h.hunt h0 _).hunt h₁ _).hunt h₂ _, h₃, by simp⟩

/-! ## The whole frame -/

theorem feedBytes_concat {bs : List Byte} {b : Byte} {s t u : State} {os : List Output}
    (h : feedBytes bs s = .next (os, t)) (hb : exec (.byte b) t = .next u) :
    feedBytes (bs ++ [b]) s = .next (os ++ [u.lastOutput], u) := by
  rw [feedBytes, List.map_append, feed_append h, List.map_singleton, feed_cons hb rfl]

section Frame

variable {s : State} {f : List Byte} (hinv : s.Inv) (h0 : s.nbyte = 0) (hf : Wire.isFrame f)
  (hfits : f.length ≤ s.buf.size)
include hinv h0 hf hfits

/-- Every byte of a frame that fits but its last outputs NONE and is kept (41_framer.md R81). -/
theorem feedBytes_take_frame {k : Nat} (h3 : 3 ≤ k) (hk : k < f.length) :
    ∃ t, feedBytes (f.take k) s = .next (List.replicate k Output.quiet, t) ∧ t.Holds f k := by
  induction k, h3 using Nat.le_induction with
  | base =>
    obtain ⟨t, hfeed, htinv, hnbyte, hsize⟩ := hinv.feedBytes_sync h0
    obtain ⟨hr₀, hr₁, hr₂⟩ := htinv.syncHeld hnbyte.ge
    refine ⟨t, hf.1.symm ▸ hfeed, htinv, hsize.symm ▸ hfits, hnbyte, fun i hi => ?_⟩
    rw [Wire.byteAt_of_isFrame hf hi]
    interval_cases i
    · exact hr₀
    · exact hr₁
    · exact hr₂
  | succ k h3 ih =>
    obtain ⟨t, hfeed, hheld⟩ := ih (by omega)
    obtain ⟨u, hexec, hquiet, hnext⟩ := hheld.next hf h3 hk
    refine ⟨u, ?_, hnext⟩
    rw [Wire.take_succ (by omega), feedBytes_concat hfeed hexec, hquiet, List.replicate_succ']

/-- A frame that fits, fed from HUNT: NONE on all bytes but the last, and there the verdict; the frame is in the
buffer. -/
theorem feedBytes_frame :
    ∃ t, feedBytes f s = .next (List.replicate (f.length - 1) Output.quiet ++ [Wire.verdict f], t) ∧ t.Inv ∧
      t.nbyte = 0 ∧ t.bytes f.length = f := by
  have hlength := Wire.length_of_isFrame hf
  have hsize := Wire.frameSize_eq f
  obtain ⟨t, hfeed, hheld⟩ := feedBytes_take_frame hinv h0 hf hfits (k := f.length - 1) (by omega) (by omega)
  obtain ⟨u, hexec, hverdict, huinv, hunbyte, hubytes⟩ := hheld.last hf (by omega) (by omega)
  refine ⟨u, ?_, huinv, hunbyte, hubytes⟩
  have hwhole : f.take (f.length - 1) ++ [Wire.byteAt f (f.length - 1)] = f := by
    rw [← Wire.take_succ (by omega), Nat.sub_add_cancel (by omega), List.take_length]
  rw [← hverdict, ← feedBytes_concat hfeed hexec, hwhole]

end Frame

/-! ## The obligation -/

theorem Wire.verdict_frameOf {a : FrameArgs} (h : a.wf = true) : Wire.verdict (Wire.frameOf a) =
    if a.week = 0#16 then Output.error .week else Output.accepted (Wire.bundle (Wire.frameOf a)) := by
  have hweek : a.week.toNat = 0 ↔ a.week = 0#16 := (BitVec.toNat_eq (y := 0#16)).symm
  rw [Wire.verdict, if_neg (not_not.2 (Wire.frameOf_trailerOk h)), Wire.frameOf_week]
  simp only [hweek]

/-- Settles O48: FRAME builds a frame with a correct trailer, so the verdict on its last byte turns on the
week alone. -/
theorem framePseudoIsJudgedByWeek : Obligations.FramePseudoIsJudgedByWeek := by
  unfold Obligations.FramePseudoIsJudgedByWeek
  intro s a hinv h0 hwf hfits
  obtain ⟨t, hfeed, -⟩ :=
    feedBytes_frame hinv h0 (Wire.frameOf_isFrame hwf) ((Wire.frameOf_length a).symm ▸ hfits)
  refine ⟨_, t, _, hfeed, fun p hp => List.eq_of_mem_replicate hp, ?_⟩
  rw [Wire.verdict_frameOf hwf]
  split_ifs with hweek
  · rfl
  · have hbody : a.body.length < 2 ^ 16 := Nat.lt_succ_of_le (of_decide_eq_true hwf)
    refine ⟨rfl, _, rfl, ?_⟩
    rw [Wire.bundle_frameOf hwf]
    exact ⟨rfl, rfl, rfl, rfl, (BitVec.toNat_ofNat _ _).trans (Nat.mod_eq_of_lt hbody)⟩

end Sys2Proof.Machine
end

section
/-! # The sync search (40_sync.md R63 to R71) -/

namespace Sys2Proof.Machine

/-! ## One hunt byte -/

theorem State.hunt_nbyte {s : State} (h0 : s.nbyte = 0) (b : Byte) :
    (s.hunt b).nbyte = if s.win.shift b = Window.sync then 3 else 0 := by
  split_ifs with hsync
  · exact State.hunt_nbyte_of_sync hsync
  · exact (State.hunt_nbyte_of_no_sync hsync).trans h0

theorem State.hunt_buf_of_no_sync {s : State} {b : Byte} (h : s.win.shift b ≠ Window.sync) : (s.hunt b).buf = s.buf := by
  rw [State.hunt_of_no_sync h]
  rfl

theorem State.readByte_hunt_of_sync {s : State} {b : Byte} (h : s.win.shift b = Window.sync) (i : Nat) :
    (s.hunt b).readByte i =
      if i = 2 then sync2 else if i = 1 then sync1 else if i = 0 then sync0 else s.readByte i := by
  rw [State.hunt_of_sync h]
  exact State.readByte_openFrame _ i

/-- Settles O18: whether the shifted window holds the pattern decides between opening a frame and leaving the buffer. -/
theorem huntByteSearchesSync : Obligations.HuntByteSearchesSync := by
  unfold Obligations.HuntByteSearchesSync
  intro s b h0
  refine ⟨_, exec_byte_of_hunt b h0, s.hunt_win b, rfl, s.hunt_len b, s.hunt_size b, s.hunt_draws b,
    exec_input (exec_byte_of_hunt b h0), ?_⟩
  split_ifs with hbytes
  · have hsync : s.win.shift b = Window.sync := Window.shift_eq_sync.2 hbytes
    have hread := State.readByte_hunt_of_sync hsync
    refine ⟨State.hunt_nbyte_of_sync hsync, hread 0, hread 1, hread 2, fun a ha => ?_⟩
    rw [hread, if_neg (by omega), if_neg (by omega), if_neg (by omega)]
  · have hsync : s.win.shift b ≠ Window.sync := fun h => hbytes (Window.shift_eq_sync.1 h)
    exact ⟨(State.hunt_nbyte_of_no_sync hsync).trans h0, State.hunt_buf_of_no_sync hsync⟩

/-- Settles O19: after two hunt bytes the window holds just them, and the third completes the pattern or does not. -/
theorem syncIsLastThreeHuntBytes : Obligations.SyncIsLastThreeHuntBytes := by
  unfold Obligations.SyncIsLastThreeHuntBytes
  intro s s₁ s₂ b₁ b₂ b₃ h0 hexec₁ h₁ hexec₂ h₂
  obtain rfl : s.hunt b₁ = s₁ := Host.Outcome.next.inj ((exec_byte_of_hunt b₁ h0).symm.trans hexec₁)
  obtain rfl : (s.hunt b₁).hunt b₂ = s₂ := Host.Outcome.next.inj ((exec_byte_of_hunt b₂ h₁).symm.trans hexec₂)
  refine ⟨_, exec_byte_of_hunt b₃ h₂, ?_⟩
  have hsync : ((s.hunt b₁).hunt b₂).win.shift b₃ = Window.sync ↔ b₁ = 0xAA#8 ∧ b₂ = 0x44#8 ∧ b₃ = 0x12#8 := by
    rw [Window.shift_eq_sync, State.hunt_win, State.hunt_win]
    rfl
  rw [State.hunt_nbyte h₂, ← hsync]
  split_ifs with h
  · exact ⟨iff_of_true rfl h, .inr rfl⟩
  · exact ⟨iff_of_false (by decide) h, .inl rfl⟩

/-! ## Any number of hunt bytes (40_sync.md R71) -/

/-- The window after hunt bytes: the last three of what it held and what came (40_sync.md R64). -/
def Window.after (w : Window) (bs : List Byte) : Window := bs.foldl Window.shift w

/-- Whether the pattern stands among the bytes that the next shifts can compare: the two newest of the window, then what
comes. -/
def Window.FindsSync (w : Window) (bs : List Byte) : Prop := syncBytes <:+: w.w1 :: w.w2 :: bs

@[simp] theorem Window.findsSync_cons {w : Window} {b : Byte} {bs : List Byte} :
    w.FindsSync (b :: bs) ↔ (w.w1 = sync0 ∧ w.w2 = sync1 ∧ b = sync2) ∨ (w.shift b).FindsSync bs := by
  have hfirst : syncBytes <+: w.w1 :: w.w2 :: b :: bs ↔ w.w1 = sync0 ∧ w.w2 = sync1 ∧ b = sync2 := by
    simp [syncBytes, eq_comm]
  rw [Window.FindsSync, List.infix_cons_iff, hfirst]
  rfl

@[simp] theorem Window.not_findsSync_nil (w : Window) : ¬ w.FindsSync [] := fun h =>
  absurd h.length_le (by simp [syncBytes])

/-- Hunt bytes without the pattern are shifted in, one by one, and change nothing else. -/
theorem feedBytes_of_no_sync {bs : List Byte} {s : State} (h0 : s.nbyte = 0) (h : ¬ s.win.FindsSync bs) :
    ∃ t, feedBytes bs s = .next (List.replicate bs.length Output.quiet, t) ∧ t.nbyte = 0 ∧ t.buf = s.buf ∧
      t.win = s.win.after bs := by
  induction bs generalizing s with
  | nil => exact ⟨s, rfl, h0, rfl, rfl⟩
  | cons b bs ih =>
    rw [Window.findsSync_cons, ← Window.shift_eq_sync, not_or] at h
    obtain ⟨hsync, hrest⟩ := h
    obtain ⟨t, hfeed, hnbyte, hbuf, hwin⟩ :=
      ih ((State.hunt_nbyte_of_no_sync hsync).trans h0) ((s.hunt_win b).symm ▸ hrest)
    refine ⟨t, feed_cons (exec_byte_of_hunt b h0) hfeed, hnbyte, hbuf.trans (State.hunt_buf_of_no_sync hsync), ?_⟩
    rw [hwin, State.hunt_win]
    rfl

/-- The byte that completes the pattern after such bytes opens a frame. -/
theorem feedBytes_of_first_sync {bs : List Byte} {b : Byte} {s : State} (h0 : s.nbyte = 0) (h : ¬ s.win.FindsSync bs)
    (hsync : (s.win.after bs).shift b = Window.sync) :
    ∃ t os, feedBytes (bs ++ [b]) s = .next (os, t) ∧ t.nbyte = 3 := by
  obtain ⟨t, hfeed, hnbyte, -, hwin⟩ := feedBytes_of_no_sync h0 h
  exact ⟨_, _, feedBytes_concat hfeed (exec_byte_of_hunt b hnbyte), State.hunt_nbyte_of_sync (hwin ▸ hsync)⟩

/-- Settles O20: whatever the window holds, neither 0xAA nor 0x44 is the last byte of the pattern, and after them 0x12
is. -/
theorem frameFoundOnThirdByte : Obligations.FrameFoundOnThirdByte := by
  unfold Obligations.FrameFoundOnThirdByte
  intro s h0
  have h₁ : (s.hunt 0xAA#8).nbyte = 0 :=
    (State.hunt_nbyte_of_no_sync (by simp [Window.shift_eq_sync, sync2])).trans h0
  have h₂ : ((s.hunt 0xAA#8).hunt 0x44#8).nbyte = 0 :=
    (State.hunt_nbyte_of_no_sync (by simp [Window.shift_eq_sync, sync2])).trans h₁
  have h₃ : (((s.hunt 0xAA#8).hunt 0x44#8).hunt 0x12#8).nbyte = 3 :=
    State.hunt_nbyte_of_sync (by simp [Window.shift, Window.sync, sync0, sync1, sync2])
  exact ⟨_, _, _, exec_byte_of_hunt _ h0, h₁, exec_byte_of_hunt _ h₁, h₂, exec_byte_of_hunt _ h₂, h₃⟩

/-- Settles O21: the pattern stands in none of the sequences that stay in HUNT, and in each of the two others its last
byte is the first to complete it. -/
theorem overlappingPrefixesResolve : Obligations.OverlappingPrefixesResolve := by
  unfold Obligations.OverlappingPrefixesResolve
  intro s h0
  have hquiet {bs : List Byte} (h : ¬ s.win.FindsSync bs) : ∃ t os, feedBytes bs s = .next (os, t) ∧ t.nbyte = 0 := by
    obtain ⟨t, hfeed, hnbyte, -⟩ := feedBytes_of_no_sync h0 h
    exact ⟨t, _, hfeed, hnbyte⟩
  have hshort : ¬ s.win.FindsSync [0xAA#8, 0xAA#8, 0x44#8] := by
    simp [sync0, sync1, sync2]
  have hlong : ¬ s.win.FindsSync [0xAA#8, 0x44#8, 0xAA#8, 0x44#8] := by
    simp [sync0, sync1, sync2]
  refine ⟨hquiet hshort, feedBytes_of_first_sync h0 hshort rfl, hquiet hlong, feedBytes_of_first_sync h0 hlong rfl,
    hquiet ?_, hquiet ?_, fun hw2 => hquiet ?_⟩
  · simp [sync0, sync1, sync2]
  · simp [sync0, sync1, sync2]
  · simp [sync0, sync1, sync2, hw2]

/-- Settles O22, by induction on the bytes. -/
theorem garbageIsConsumedQuietly : Obligations.GarbageIsConsumedQuietly := by
  unfold Obligations.GarbageIsConsumedQuietly
  intro bs s h0 h
  obtain ⟨t, hfeed, hnbyte, hbuf, -⟩ := feedBytes_of_no_sync h0 h
  exact ⟨t, hfeed, hnbyte, hbuf⟩

/-! ## The window through a frame (40_sync.md R66) -/

/-- Settles O31: BYTE in ACCUMULATE leaves the window, which the invariants have at the pattern. -/
theorem frameBytesStayOutOfWindow : Obligations.FrameBytesStayOutOfWindow := by
  unfold Obligations.FrameBytesStayOutOfWindow
  intro s t b hinv h3 hexec
  obtain ⟨-, hkept, -⟩ := byteFrame s t b hexec
  have hwin : t.win = s.win := hkept (by omega)
  exact ⟨hwin, fun _ => hwin.trans (hinv.windowHeld h3)⟩

end Sys2Proof.Machine
end

section
/-! # The stale window after a frame acts like the reset window (40_sync.md R68) -/

namespace Sys2Proof.Machine

/-! ## Windows that the search does not tell apart -/

/-- How much of the pattern the window ends in: its first two bytes, or its first. The search depends on no more. -/
structure Window.SearchesAlike (v w : Window) : Prop where
  two : v.w1 = sync0 ∧ v.w2 = sync1 ↔ w.w1 = sync0 ∧ w.w2 = sync1
  one : v.w2 = sync0 ↔ w.w2 = sync0

theorem Window.SearchesAlike.shift_eq_sync {v w : Window} (h : v.SearchesAlike w) (b : Byte) :
    v.shift b = Window.sync ↔ w.shift b = Window.sync := by
  rw [Window.shift_eq_sync, Window.shift_eq_sync, ← and_assoc, ← and_assoc, h.two]

theorem Window.SearchesAlike.shift {v w : Window} (h : v.SearchesAlike w) (b : Byte) :
    (v.shift b).SearchesAlike (w.shift b) where
  two := and_congr_left' h.one
  one := Iff.rfl

theorem Window.sync_searchesAlike_cleared : Window.sync.SearchesAlike Window.cleared :=
  ⟨by decide, by decide⟩

/-! ## Two states in HUNT that differ in such a window -/

/-- A transaction in HUNT removes the difference, or leaves the block in HUNT with a difference of the same kind. -/
theorem exec_setWin_of_hunt (i : Instr) {s : State} {w : Window} (h0 : s.nbyte = 0) (hw : s.win.SearchesAlike w) :
    exec i (s.setWin w) = exec i s ∨
    ∃ t v, exec i s = .next t ∧ exec i (s.setWin w) = .next (t.setWin v) ∧ t.nbyte = 0 ∧ t.win.SearchesAlike v := by
  cases i with
  | nop => exact .inr ⟨_, w, exec_nop s, rfl, h0, hw⟩
  | eoi => exact .inl rfl
  | reset => exact .inl rfl
  | byte b =>
    have hexec : exec (.byte b) (s.setWin w) = .next ((s.setWin w).hunt b) := exec_byte_of_hunt b h0
    have hsame : s.win.shift b = Window.sync ↔ (s.setWin w).win.shift b = Window.sync := hw.shift_eq_sync b
    by_cases hsync : s.win.shift b = Window.sync
    · left
      have hother : (s.setWin w).hunt b = s.hunt b := by
        rw [State.hunt_of_sync hsync, State.hunt_of_sync (hsame.1 hsync), hsync, hsame.1 hsync]
        rfl
      rw [hexec, hother, exec_byte_of_hunt b h0]
    · right
      have hother : (s.setWin w).hunt b = (s.hunt b).setWin (w.shift b) := by
        rw [State.hunt_of_no_sync hsync, State.hunt_of_no_sync (hsame.not.1 hsync)]
        rfl
      exact ⟨_, _, exec_byte_of_hunt b h0, hexec.trans (congrArg _ hother),
        (State.hunt_nbyte_of_no_sync hsync).trans h0, (s.hunt_win b).symm ▸ hw.shift b⟩

/-- From an invariant state every sequence runs to its end (60_exceptions.md R113). -/
theorem State.Inv.feed {s : State} (h : s.Inv) (is : List Instr) : ∃ os t, feed is s = .next (os, t) := by
  induction is generalizing s with
  | nil => exact ⟨_, _, rfl⟩
  | cons i is ih =>
    obtain ⟨t, hexec, hinv⟩ := h.exec i
    obtain ⟨os, u, hfeed⟩ := ih hinv
    exact ⟨_, u, feed_cons hexec hfeed⟩

/-- No sequence tells such states apart. -/
theorem feed_setWin_of_hunt (is : List Instr) {s : State} {w : Window} (h : s.Inv) (h0 : s.nbyte = 0)
    (hw : s.win.SearchesAlike w) :
    ∃ os t u, feed is s = .next (os, t) ∧ feed is (s.setWin w) = .next (os, u) ∧ t.nbyte = u.nbyte := by
  induction is generalizing s w with
  | nil => exact ⟨_, _, _, rfl, rfl, rfl⟩
  | cons i is ih =>
    rcases exec_setWin_of_hunt i h0 hw with hsame | ⟨t, v, hexec, hexec', hnbyte, hv⟩
    · obtain ⟨os, u, hfeed⟩ := h.feed (i :: is)
      have hfeed' : feed (i :: is) (s.setWin w) = feed (i :: is) s := by
        simp only [feed, hsame]
      exact ⟨os, u, u, hfeed, hfeed'.trans hfeed, rfl⟩
    · obtain ⟨os, u, u', hfeed, hfeed', hend⟩ := ih (h.of_exec hexec) hnbyte hv
      exact ⟨t.lastOutput :: os, u, u', feed_cons hexec hfeed, feed_cons (t := t.setWin v) hexec' hfeed', hend⟩

/-! ## The obligation -/

/-- Settles O23: the pattern has no room in 0x44, 0x12 and two bytes more, and the stale window ends in no first part of
the pattern, as the reset window does. -/
theorem staleWindowActsLikeReset : Obligations.StaleWindowActsLikeReset := by
  unfold Obligations.StaleWindowActsLikeReset
  intro s hinv h0 hwin
  refine ⟨fun d₁ d₂ => ?_, fun is => feed_setWin_of_hunt is hinv h0 (hwin.symm ▸ Window.sync_searchesAlike_cleared)⟩
  have htwo : ¬ s.win.FindsSync [d₁, d₂] := by
    simp [hwin, sync0]
  have hone : ¬ s.win.FindsSync [d₁] := fun h => htwo (h.trans ⟨[], [d₂], rfl⟩)
  obtain ⟨t, hfeed₁, ht, -, htwin⟩ := feedBytes_of_no_sync h0 hone
  obtain ⟨u, hfeed₂, hu, -, huwin⟩ := feedBytes_of_no_sync h0 htwo
  rw [hwin] at htwin huwin
  exact ⟨t, u, _, _, hfeed₁, ht, htwin, hfeed₂, hu, huwin⟩

end Sys2Proof.Machine
end

section
/-! # The window kept in `buf[0..2]` gives the same outputs (40_sync.md R72) -/

namespace Sys2Proof.Machine

/-! ## The shared window and the rest of the buffer -/

@[simp] theorem State.setSharedWindow_nbyte (s : State) (w : Window) : (s.setSharedWindow w).nbyte = s.nbyte := rfl

@[simp] theorem State.setSharedWindow_len (s : State) (w : Window) : (s.setSharedWindow w).len = s.len := rfl

@[simp] theorem State.setSharedWindow_size (s : State) (w : Window) :
    (s.setSharedWindow w).buf.size = s.buf.size := rfl

@[simp] theorem State.setSharedWindow_draws (s : State) (w : Window) : (s.setSharedWindow w).draws = s.draws := rfl

@[simp] theorem State.sharedWindow_setSharedWindow (s : State) (w : Window) :
    (s.setSharedWindow w).sharedWindow = w := by
  simp [State.sharedWindow, State.setSharedWindow]

theorem State.readByte_setSharedWindow (s : State) (w : Window) {i : Nat} (hi : 3 ≤ i) :
    (s.setSharedWindow w).readByte i = s.readByte i := by
  simp [State.setSharedWindow, show i ≠ 0 by omega, show i ≠ 1 by omega, show i ≠ 2 by omega]

/-- The window in `buf[0..2]` depends on those bytes and on nothing else. -/
theorem State.sharedWindow_congr {s t : State} (h : ∀ i, i < 3 → s.readByte i = t.readByte i) :
    s.sharedWindow = t.sharedWindow := by
  simp only [State.sharedWindow, h 0 (by omega), h 1 (by omega), h 2 (by omega)]

/-! ## What a hunt byte stores, in the block's own layout and in this one -/

/-- A hunt byte stores to no index but 0 to 2 (20_memory.md R34). -/
theorem State.lt_three_of_mem_storedIndices {s : State} {b : Byte} {a : Nat} (h0 : s.nbyte = 0)
    (ha : a ∈ s.storedIndices b) : a < 3 := by
  by_cases hsync : s.completesSync b = true
  · have ha : a = 0 ∨ a = 1 ∨ a = 2 := by simpa [State.storedIndices, h0, hsync] using ha
    omega
  · simp [State.storedIndices, h0, hsync] at ha

/-- A hunt byte in this layout writes the window, `nbyte` and the output (40_sync.md R72). -/
theorem State.sharedHunt_eq (s : State) (b : Byte) :
    s.sharedHunt b = ((s.setSharedWindow (s.sharedWindow.shift b)).setNbyte
      (if s.sharedWindow.shift b = Window.sync then 3 else s.nbyte)).emit Output.quiet := by
  unfold State.sharedHunt
  split_ifs <;> rfl

/-! ## The framer does not look at the window (40_sync.md R66) -/

theorem State.afterStore_setWin (s : State) (w : Window) : (s.setWin w).afterStore = s.afterStore.setWin w := by
  simp only [State.afterStore, State.afterStoreWith, State.completeWith, State.validate, State.validateWith,
    apply_ite (State.setWin · w)]
  rfl

theorem State.afterStore_len_of_ten {s : State} (h10 : s.nbyte = 10) : s.afterStore.len = 28 + s.memRead 8 2 := by
  rw [State.afterStore]
  rcases s.afterStoreWith_cases State.validate with ⟨hlt, -⟩ | ⟨-, -, h⟩ | ⟨-, -, h⟩ | ⟨hgt, -⟩ | ⟨hgt, -⟩
  · omega
  · rw [h]; rfl
  · rw [h]; rfl
  · omega
  · omega

/-! ## The rules keep the correspondence -/

theorem State.SharesWindow.emit {s t : State} (h : s.SharesWindow t) (o : Output) :
    (s.emit o).SharesWindow (t.emit o) :=
  ⟨h.inv.emit o, h.nbyte, h.len, h.size, h.draws, h.window, h.bytes⟩

/-- EOI and RESET clear the window, so the states need not correspond in it before (43_control.md R98, R99). -/
theorem State.sharesWindow_cleared {s t : State} (hcapacity : 32 ≤ s.buf.size)
    (hcells : Memory.wf s.buf.size s.buf.cells) (hlen : t.len = s.len) (hsize : t.buf.size = s.buf.size)
    (hdraws : t.draws = s.draws) (hbytes : ∀ i, 3 ≤ i → t.readByte i = s.readByte i) :
    ((s.setNbyte 0).setWin Window.cleared).SharesWindow ((t.setNbyte 0).setSharedWindow Window.cleared) where
  inv := State.inv_of_hunt hcapacity hcells rfl
  nbyte := rfl
  len := hlen
  size := hsize
  draws := hdraws
  window := State.sharedWindow_setSharedWindow _ _
  bytes i hi := (State.readByte_setSharedWindow _ _ hi).trans (hbytes i hi)

theorem State.SharesWindow.hunt {s t : State} (h : s.SharesWindow t) (h0 : s.nbyte = 0) (b : Byte) :
    (s.hunt b).SharesWindow (t.sharedHunt b) := by
  rw [State.sharedHunt_eq, h.window, h.nbyte]
  refine ⟨h.inv.hunt h0 b, ?_, ?_, ?_, ?_, ?_, fun i hi => ?_⟩
  · split_ifs with hsync
    · exact (State.hunt_nbyte_of_sync hsync).symm
    · exact (State.hunt_nbyte_of_no_sync hsync).symm
  · simp [h.len]
  · simp [h.size]
  · simp [h.draws]
  · rw [State.hunt_win]
    exact State.sharedWindow_setSharedWindow t _
  · have hother : i ∉ s.storedIndices b := fun hmem => absurd (State.lt_three_of_mem_storedIndices h0 hmem) (by omega)
    rw [State.readByte_hunt h0 hother, ← h.bytes i hi]
    exact State.readByte_setSharedWindow t _ hi

section Accumulate

variable {s t : State} (h : s.SharesWindow t) (h3 : 3 ≤ s.nbyte)
include h h3

/-- While a frame is in progress both layouts hold the sync pattern in `buf[0..2]` (40_sync.md R72). -/
theorem State.SharesWindow.sharedWindow_eq_sync : s.sharedWindow = Window.sync := by
  obtain ⟨h₀, h₁, h₂⟩ := h.inv.syncHeld h3
  rw [State.sharedWindow, h₀, h₁, h₂, Window.sync]

theorem State.SharesWindow.readByte_eq (i : Nat) : t.readByte i = s.readByte i := by
  by_cases hi : 3 ≤ i
  · exact h.bytes i hi
  · have hwindow : t.sharedWindow = s.sharedWindow := by
      rw [h.window, h.inv.windowHeld h3, h.sharedWindow_eq_sync h3]
    obtain ⟨h₀, h₁, h₂⟩ := Window.mk.inj hwindow
    obtain rfl | rfl | rfl : i = 0 ∨ i = 1 ∨ i = 2 := by omega
    · exact h₀
    · exact h₁
    · exact h₂

/-- Then the states agree but for the field `win` that this layout leaves unused. -/
theorem State.SharesWindow.agrees : s.Agrees (t.setWin s.win) :=
  ⟨h.nbyte.symm, rfl, h.size.symm, fun _ => h.len.symm, fun i _ => (h.readByte_eq h3 i).symm⟩

theorem State.SharesWindow.answersAlike (b : Byte) :
    (s.storeNext b).afterStore.AnswersAlike ((t.storeNext b).afterStore.setWin s.win) := by
  rw [← State.afterStore_setWin]
  exact (h.agrees h3).accumulate h.inv b

theorem State.SharesWindow.readByte_storeNext_eq (b : Byte) (i : Nat) :
    (t.storeNext b).readByte i = (s.storeNext b).readByte i := by
  rw [State.readByte_storeNext, State.readByte_storeNext, h.nbyte, h.readByte_eq h3]

theorem State.SharesWindow.afterStore_len_eq (b : Byte) :
    (t.storeNext b).afterStore.len = (s.storeNext b).afterStore.len := by
  have hnbyte : (t.storeNext b).nbyte = (s.storeNext b).nbyte := congrArg (· + 1) h.nbyte
  by_cases h10 : (s.storeNext b).nbyte = 10
  · rw [State.afterStore_len_of_ten h10, State.afterStore_len_of_ten (hnbyte.trans h10),
      State.memRead_congr 2 fun _ _ => h.readByte_storeNext_eq h3 b _]
  · rw [State.afterStore_len h10, State.afterStore_len (hnbyte ▸ h10), State.storeNext_len, State.storeNext_len, h.len]

/-- The framer stores at index 3 and above, so `buf[0..2]` still holds the window afterwards (40_sync.md R72). -/
theorem State.SharesWindow.accumulate (b : Byte) :
    (s.storeNext b).afterStore.SharesWindow (t.storeNext b).afterStore where
  inv := h.inv.accumulate h3 b
  nbyte := (h.answersAlike h3 b).2.nbyte.symm
  len := h.afterStore_len_eq h3 b
  size := by simp [h.size]
  draws := by simp [h.draws]
  window := by
    have hkept : (t.storeNext b).afterStore.sharedWindow = t.sharedWindow := State.sharedWindow_congr fun i hi => by
      have hnbyte := h.nbyte
      simp [show i ≠ t.nbyte by omega]
    simp [hkept, h.window]
  bytes i _ := by
    rw [State.readByte_afterStore, State.readByte_afterStore]
    exact h.readByte_storeNext_eq h3 b i

end Accumulate

/-! ## The obligation -/

/-- A transaction that completes leaves its output in the state. -/
theorem State.Emits.out_eq {t : State} (h : t.Emits) : t.out = some t.lastOutput := by
  obtain ⟨u, o, rfl, -⟩ := h
  rfl

/-- Settles O52, by the transaction: in HUNT both layouts shift and compare the same window; in ACCUMULATE both buffers
read alike, and the framer looks at nothing else. -/
theorem sharedWindowLayoutRefines : Obligations.SharedWindowLayoutRefines := by
  unfold Obligations.SharedWindowLayoutRefines
  intro i s t h
  cases i with
  | nop => exact ⟨_, _, exec_nop s, rfl, rfl, h.emit _⟩
  | eoi =>
    exact ⟨_, _, exec_eoi s, rfl, rfl,
      (State.sharesWindow_cleared h.inv.capacity h.inv.cells h.len h.size h.draws h.bytes).emit _⟩
  | reset =>
    have hdraws : t.forgetFrame.draws = s.forgetFrame.draws := congrArg (· + 1) h.draws
    have hlen : t.forgetFrame.len = s.forgetFrame.len := congrArg Config.freeLen hdraws
    have hbytes (i : Nat) : t.forgetFrame.readByte i = s.forgetFrame.readByte i :=
      congrArg (unlistedByte · i) hdraws
    exact ⟨_, _, exec_reset s, rfl, rfl,
      (State.sharesWindow_cleared (s := s.forgetFrame) h.inv.capacity (Memory.wf_nil _) hlen h.size hdraws
        fun i _ => hbytes i).emit _⟩
  | byte b =>
    by_cases h0 : s.nbyte = 0
    · exact ⟨_, _, execByte_of_hunt b h0, if_pos (h.nbyte.trans h0), rfl, h.hunt h0 b⟩
    · have h3 := h.inv.three_le h0
      have hroom : t.nbyte < t.buf.size := by
        rw [h.nbyte, h.size]
        exact h.inv.nbyte_lt_size
      have hexec : sharedExec (.byte b) t = .next (t.storeNext b).afterStore :=
        (if_neg (h.nbyte.symm ▸ h0)).trans (if_pos hroom)
      refine ⟨_, _, execByte_of_accumulate b h0 h.inv.nbyte_lt_size, hexec, ?_, h.accumulate h3 b⟩
      rw [(State.afterStore_emits _).out_eq, (State.afterStore_emits _).out_eq]
      exact congrArg some (h.answersAlike h3 b).1.symm

end Sys2Proof.Machine
end

section
/-! # The framer in ACCUMULATE: stored bytes, the length check, and no partial message (41_framer.md R73 to R82) -/

namespace Sys2Proof.Machine

/-! ## An ACCUMULATE byte, by the state before it -/

/-- `len` after the byte `b`: the exact size `28 + N` where `b` is the tenth byte, else as it was (41_framer.md R73,
R75). -/
def State.lenAfter (s : State) (b : Byte) : Nat :=
  if s.nbyte = 9 then 28 + ((s.readByte 8).toNat + 256 * b.toNat) else s.len

theorem State.lenAfter_of_nine {s : State} (b : Byte) (h9 : s.nbyte = 9) :
    s.lenAfter b = 28 + ((s.readByte 8).toNat + 256 * b.toNat) := if_pos h9

theorem State.lenAfter_of_ne_nine {s : State} (b : Byte) (h9 : s.nbyte ≠ 9) : s.lenAfter b = s.len := if_neg h9

/-- The length read of the tenth byte takes byte 8 from the buffer and the tenth byte as byte 9. -/
theorem State.lenAfter_eq_memRead {s : State} (b : Byte) (h9 : s.nbyte = 9) :
    28 + (s.storeNext b).memRead 8 2 = s.lenAfter b := by
  simp [State.memRead_two, State.lenAfter, h9]

/-- The declared size is exact: it never exceeds `28 + 65535` (41_framer.md R75). -/
theorem State.lenAfter_le {s : State} (b : Byte) (h9 : s.nbyte = 9) : s.lenAfter b ≤ 65563 := by
  have hread := (s.storeNext b).memRead_lt 8 2
  have heq := State.lenAfter_eq_memRead b h9
  omega

/-- The three ends of an ACCUMULATE byte: stored with output NONE, the length error, or the verdict on the complete frame
(41_framer.md R73, R74, R76, R77). -/
theorem State.accumulate_cases (s : State) (b : Byte) :
    (¬ (s.nbyte = 9 ∧ s.buf.size - 4 < s.lenAfter b) ∧ ¬ (10 ≤ s.nbyte ∧ s.lenAfter b + 4 ≤ s.nbyte + 1) ∧
      (s.storeNext b).afterStore = ((s.storeNext b).setLen (s.lenAfter b)).emit Output.quiet) ∨
    (s.nbyte = 9 ∧ s.buf.size - 4 < s.lenAfter b ∧
      (s.storeNext b).afterStore = ((s.storeNext b).setLen (s.lenAfter b)).raiseFrameError .len) ∨
    (10 ≤ s.nbyte ∧ s.len + 4 ≤ s.nbyte + 1 ∧
      (s.storeNext b).afterStore = ((s.storeNext b).setNbyte 0).emit ((s.storeNext b).setNbyte 0).verdict) := by
  have hkept (h9 : s.nbyte ≠ 9) : (s.storeNext b).setLen (s.lenAfter b) = s.storeNext b := by
    rw [State.lenAfter_of_ne_nine b h9]; rfl
  have hread (h9 : s.nbyte = 9) : (s.storeNext b).readLength = (s.storeNext b).setLen (s.lenAfter b) := by
    rw [← State.lenAfter_eq_memRead b h9]; rfl
  have hnbyte : (s.storeNext b).nbyte = s.nbyte + 1 := rfl
  rw [State.afterStore]
  rcases (s.storeNext b).afterStoreWith_cases State.validate with
    ⟨hlt, heq⟩ | ⟨h10, hlarge, heq⟩ | ⟨h10, hfits, heq⟩ | ⟨hgt, hmore, heq⟩ | ⟨hgt, hdone, heq⟩
  · have h9 : s.nbyte ≠ 9 := by omega
    exact .inl ⟨by omega, by omega, by rw [heq, hkept h9]⟩
  · have h9 : s.nbyte = 9 := by omega
    rw [State.lenAfter_eq_memRead b h9] at hlarge
    exact .inr (.inl ⟨h9, hlarge, by rw [heq, hread h9]⟩)
  · have h9 : s.nbyte = 9 := by omega
    rw [State.lenAfter_eq_memRead b h9] at hfits
    exact .inl ⟨fun h => absurd h.2 (not_lt.2 hfits), by omega, by rw [heq, hread h9]⟩
  · have h9 : s.nbyte ≠ 9 := by omega
    rw [State.storeNext_len] at hmore
    rw [State.lenAfter_of_ne_nine b h9]
    exact .inl ⟨by omega, by omega, heq⟩
  · rw [State.storeNext_len] at hdone
    exact .inr (.inr ⟨by omega, hdone, by rw [heq, State.validate_of_hunt rfl]⟩)

/-- Settles O24: the two premises shut out the length error and the completion, and the end that is left stores the
byte. -/
theorem accumulateByteIsStored : Obligations.AccumulateByteIsStored := by
  unfold Obligations.AccumulateByteIsStored
  intro s b len h3 hroom hlen hfits hmore
  obtain rfl : s.lenAfter b = len := hlen.symm
  have hexec : exec (.byte b) s = .next (s.storeNext b).afterStore := execByte_of_accumulate b (by omega) hroom
  rcases s.accumulate_cases b with ⟨-, -, heq⟩ | ⟨h9, hlarge, -⟩ | ⟨h10, hdone, -⟩
  · rw [heq] at hexec
    exact ⟨_, hexec, rfl, rfl, by simp, rfl, rfl, rfl, rfl, rfl, fun a ha => by simp [ha]⟩
  · exact absurd ⟨h9, hlarge⟩ hfits
  · rw [State.lenAfter_of_ne_nine b (by omega)] at hmore
    exact absurd ⟨h10, hdone⟩ hmore

/-! ## Which steps output LEN and which a bundle -/

theorem State.verdict_cause_ne_len (s : State) : s.verdict.cause ≠ .len := by
  unfold State.verdict
  split_ifs <;> simp [Output.error, Output.accepted]

/-- Where an output comes from: LEN from the tenth byte of a frame that is too large, CRC, WEEK and the bundle from the
byte that completes a frame (41_framer.md R74, R76, R78). -/
theorem exec_output_cases {i : Instr} {s t : State} (h : exec i s = .next t) :
    t.lastOutput = Output.quiet ∨ t.lastOutput = Output.endOfFile ∨
    (∃ b, i = .byte b ∧ s.nbyte = 9 ∧ s.buf.size - 4 < s.lenAfter b ∧ t.lastOutput = Output.error .len) ∨
    (∃ b u, i = .byte b ∧ 10 ≤ s.nbyte ∧ s.len + 4 ≤ s.nbyte + 1 ∧ t.lastOutput = State.verdict u) := by
  cases i with
  | nop => exact .inl (Host.Outcome.next.inj h ▸ rfl)
  | eoi => exact .inr (.inl (Host.Outcome.next.inj h ▸ rfl))
  | reset => exact .inl (Host.Outcome.next.inj h ▸ rfl)
  | byte b =>
    rw [exec_byte] at h
    rcases execByte_cases b s with ⟨-, hexec⟩ | ⟨-, -, hexec⟩ | ⟨-, -, hexec⟩
    · exact .inl (Host.Outcome.next.inj (hexec.symm.trans h) ▸ rfl)
    · obtain rfl : (s.storeNext b).afterStore = t := Host.Outcome.next.inj (hexec.symm.trans h)
      rcases s.accumulate_cases b with ⟨-, -, heq⟩ | ⟨h9, hlarge, heq⟩ | ⟨h10, hdone, heq⟩
      · exact .inl (heq ▸ rfl)
      · exact .inr (.inr (.inl ⟨b, rfl, h9, hlarge, heq ▸ rfl⟩))
      · exact .inr (.inr (.inr ⟨b, (s.storeNext b).setNbyte 0, rfl, h10, hdone, heq ▸ rfl⟩))
    · cases hexec.symm.trans h

/-- Settles O25: the tenth byte of a frame too large has the length error as its only end, and no other end outputs
LEN. -/
theorem lengthErrorOnTenthByteOnly : Obligations.LengthErrorOnTenthByteOnly := by
  unfold Obligations.LengthErrorOnTenthByteOnly
  refine ⟨fun s b h9 hroom hlarge => ?_, fun i s t hexec hcause => ?_⟩
  · rw [← State.lenAfter_of_nine b h9] at hlarge ⊢
    have hexec : exec (.byte b) s = .next (s.storeNext b).afterStore :=
      execByte_of_accumulate b (by omega) (h9.symm ▸ hroom)
    rcases s.accumulate_cases b with ⟨hfits, -, -⟩ | ⟨-, -, heq⟩ | ⟨h10, -, -⟩
    · exact absurd ⟨h9, hlarge⟩ hfits
    · rw [heq, State.raiseFrameError] at hexec
      exact ⟨_, hexec, rfl, rfl, rfl, rfl, by simp [h9], fun a ha => by simp [h9, ha]⟩
    · omega
  · rcases exec_output_cases hexec with hout | hout | ⟨b, rfl, h9, hlarge, -⟩ | ⟨b, u, -, -, -, hout⟩
    · simp [hout, Output.quiet] at hcause
    · simp [hout, Output.endOfFile] at hcause
    · exact ⟨b, rfl, h9, State.lenAfter_of_nine b h9 ▸ hlarge⟩
    · exact absurd (hout ▸ hcause) u.verdict_cause_ne_len

/-- Settles O28: a bundle comes from the byte that completes a frame, and the invariants shut out a byte beyond it. -/
theorem noPartialMessage : Obligations.NoPartialMessage := by
  unfold Obligations.NoPartialMessage
  intro i s t hinv hexec hbundle
  rcases exec_output_cases hexec with hout | hout | ⟨b, -, -, -, hout⟩ | ⟨b, u, rfl, h10, hdone, -⟩
  · simp [hout, Output.quiet] at hbundle
  · simp [hout, Output.endOfFile] at hbundle
  · simp [hout, Output.error] at hbundle
  · obtain ⟨-, -, hbound⟩ := hinv.lengthKnown h10
    exact ⟨b, rfl, h10, by omega⟩

/-! ## The indices stored to (41_framer.md R76, 20_memory.md R32) -/

/-- Settles O32: a hunt byte stores below index 3, and an ACCUMULATE byte at `nbyte`, which R28 (3) and (4) bound. -/
theorem bufferNeverOverflows : Obligations.BufferNeverOverflows := by
  unfold Obligations.BufferNeverOverflows
  intro s b a hinv ha
  by_cases h0 : s.nbyte = 0
  · have hcapacity := hinv.capacity
    have hlt := State.lt_three_of_mem_storedIndices h0 ha
    exact ⟨by omega, fun h10 => by omega⟩
  · obtain rfl : a = s.nbyte := by simpa [State.storedIndices_of_accumulate b h0] using ha
    refine ⟨hinv.nbyte_lt_size, fun h10 => ?_⟩
    obtain ⟨-, -, hbound⟩ := hinv.lengthKnown h10
    exact hbound

/-! ## A whole frame that fits (41_framer.md R81) -/

/-- Neither the first nor the second sync byte completes the pattern, whatever the window holds (40_sync.md R70). -/
theorem Window.not_findsSync_take (w : Window) {k : Nat} (hk : k < 3) : ¬ w.FindsSync (syncBytes.take k) := by
  interval_cases k <;> simp [syncBytes, sync0, sync1, sync2]

theorem Wire.verdict_status_ne_none (f : List Byte) : (Wire.verdict f).status ≠ .none := by
  unfold Wire.verdict
  split_ifs <;> simp [Output.error, Output.accepted]

/-- Settles O43: the first two bytes are hunt bytes that complete no pattern, from the third on the block holds as many
bytes as it has taken, and the last gives the verdict. -/
theorem frameOccupiesItsBytes : Obligations.FrameOccupiesItsBytes := by
  unfold Obligations.FrameOccupiesItsBytes
  intro s f hinv h0 hf hfits
  refine ⟨fun k hk => ?_, ?_⟩
  · split_ifs with h3
    · have hprefix : f.take k = syncBytes.take k := by
        rw [← hf.1, List.take_take, min_eq_left (by omega)]
      obtain ⟨t, hfeed, hnbyte, -⟩ := feedBytes_of_no_sync h0 (hprefix ▸ s.win.not_findsSync_take h3)
      rw [List.length_take_of_le hk.le] at hfeed
      exact ⟨t, hfeed, hnbyte⟩
    · obtain ⟨t, hfeed, hheld⟩ := feedBytes_take_frame hinv h0 hf hfits (not_lt.1 h3) hk
      exact ⟨t, hfeed, hheld.nbyte⟩
  · obtain ⟨t, hfeed, -, hnbyte, hbytes⟩ := feedBytes_frame hinv h0 hf hfits
    exact ⟨t, _, hfeed, Wire.verdict_status_ne_none f, hnbyte, hbytes⟩

/-! ## A frame that does not fit (41_framer.md R80, 70_reset_and_hazards.md R128) -/

theorem Wire.bodyLen_eq (f : List Byte) :
    Wire.bodyLen f = (Wire.byteAt f 8).toNat + 256 * (Wire.byteAt f 9).toNat := by
  simp [Wire.bodyLen, Wire.field, Nat.mul_comm]

theorem State.lastOutput_of_out {s : State} {o : Output} (h : s.out = some o) : s.lastOutput = o := by
  rw [State.lastOutput, h, Option.getD_some]

/-- The bytes of a header before its tenth, fed from HUNT, are stored whatever size the header will declare. -/
theorem feedBytes_take_header {s : State} {f : List Byte} (hinv : s.Inv) (h0 : s.nbyte = 0)
    (hsync : f.take 3 = syncBytes) {k : Nat} (h3 : 3 ≤ k) (h9 : k ≤ 9) (hk : k ≤ f.length) :
    ∃ t, feedBytes (f.take k) s = .next (List.replicate k Output.quiet, t) ∧ t.nbyte = k ∧ t.buf.size = s.buf.size ∧
      t.bytes k = f.take k := by
  induction k, h3 using Nat.le_induction with
  | base =>
    obtain ⟨t, hfeed, htinv, hnbyte, hsize⟩ := hinv.feedBytes_sync h0
    obtain ⟨hr₀, hr₁, hr₂⟩ := htinv.syncHeld hnbyte.ge
    have hheld : t.bytes 3 = syncBytes := by simp [State.bytes, List.range_succ, hr₀, hr₁, hr₂, syncBytes]
    exact ⟨t, hsync.symm ▸ hfeed, hnbyte, hsize, hheld.trans hsync.symm⟩
  | succ k h3 ih =>
    obtain ⟨t, hfeed, hnbyte, hsize, hbytes⟩ := ih (by omega) (by omega)
    have hcapacity := hinv.capacity
    obtain ⟨u, hexec, hunbyte, -, hstored, hout, -, husize, -, -, hkept⟩ :=
      accumulateByteIsStored t (Wire.byteAt f k) t.len (by omega) (by omega) (if_neg (by omega)).symm (by omega)
        (by omega)
    have hprefix : u.bytes k = t.bytes k := State.bytes_congr fun i hi => hkept i (by omega)
    rw [hnbyte] at hunbyte hstored
    refine ⟨u, ?_, hunbyte, husize.trans hsize, ?_⟩
    · rw [Wire.take_succ (by omega), feedBytes_concat hfeed hexec, State.lastOutput_of_out hout, List.replicate_succ']
      rfl
    · rw [State.bytes_succ, hprefix, hbytes, hstored, Wire.take_succ (by omega)]

/-- Settles O46: nine bytes are stored, and the length error is the only end of the tenth; a size of 17 bits is never
too large for 65567 bytes and more. -/
theorem oversizeFrameIsDropped : Obligations.OversizeFrameIsDropped := by
  unfold Obligations.OversizeFrameIsDropped
  refine ⟨fun s f hinv h0 hsync hlength hlarge => ?_, fun i s t hsize hexec hcause => ?_⟩
  · have hcapacity := hinv.capacity
    obtain ⟨t, hfeed, hnbyte, hsize, hbytes⟩ :=
      feedBytes_take_header hinv h0 hsync (k := 9) (by omega) le_rfl (by omega)
    have hlow : t.readByte 8 = Wire.byteAt f 8 := by
      rw [State.bytes_succ, Wire.take_succ (by omega)] at hbytes
      exact List.singleton_inj.1 (List.append_inj_right' hbytes rfl)
    rw [Wire.bodyLen_eq, ← hlow] at hlarge
    obtain ⟨u, hexec, hunbyte, -, hout, -⟩ :=
      lengthErrorOnTenthByteOnly.1 t (Wire.byteAt f 9) hnbyte (by omega) (by omega)
    have hwhole : f.take 9 ++ [Wire.byteAt f 9] = f := by
      rw [← Wire.take_succ (by omega), List.take_of_length_le hlength.le]
    have hrun := feedBytes_concat hfeed hexec
    rw [hwhole, State.lastOutput_of_out hout] at hrun
    exact ⟨u, hrun, hunbyte⟩
  · obtain ⟨b, -, h9, hlarge⟩ := lengthErrorOnTenthByteOnly.2 i s t hexec hcause
    have hbound := State.lenAfter_le b h9
    rw [State.lenAfter_of_nine b h9] at hbound
    omega

end Sys2Proof.Machine
end

section
/-! # The algebra of the CRC-32 (42_crc_validator.md R83, R84, R92) -/

namespace Sys2Proof.Machine

/-! ## The shift steps are linear and lose nothing -/

theorem crcShift_of_even {c : Crc} (h : c.getLsbD 0 = false) : crcShift c = c >>> 1 :=
  if_neg (h ▸ Bool.false_ne_true)

theorem crcShift_of_odd {c : Crc} (h : c.getLsbD 0 = true) : crcShift c = (c >>> 1) ^^^ crcPoly := if_pos h

theorem crcShift_eq_xor (c : Crc) : crcShift c = (c >>> 1) ^^^ (if c.getLsbD 0 then crcPoly else 0#32) := by
  cases h : c.getLsbD 0
  · rw [crcShift_of_even h, if_neg Bool.false_ne_true, BitVec.xor_zero]
  · rw [crcShift_of_odd h, if_pos rfl]

theorem crcShift_xor (c d : Crc) : crcShift (c ^^^ d) = crcShift c ^^^ crcShift d := by
  have hfeedback : (if (c ^^^ d).getLsbD 0 then crcPoly else 0#32) =
      (if c.getLsbD 0 then crcPoly else 0#32) ^^^ (if d.getLsbD 0 then crcPoly else 0#32) := by
    rw [BitVec.getLsbD_xor]
    cases c.getLsbD 0 <;> cases d.getLsbD 0 <;> rfl
  rw [crcShift_eq_xor, crcShift_eq_xor c, crcShift_eq_xor d, hfeedback, BitVec.ushiftRight_xor_distrib]
  ac_rfl

/-- A shift step brings a zero to bit 31, where the polynomial has a one: it gives zero from zero alone. -/
theorem eq_zero_of_crcShift_eq_zero {c : Crc} (h : crcShift c = 0#32) : c = 0#32 := by
  have hhalf : (c >>> 1).toNat = c.toNat / 2 := by rw [BitVec.toNat_ushiftRight, Nat.shiftRight_eq_div_pow, pow_one]
  cases hc : c.getLsbD 0
  · rw [crcShift_of_even hc] at h
    have hzero : c.toNat / 2 = 0 := by rw [← hhalf, h]; rfl
    have heven : c.toNat % 2 = 0 := by simpa [BitVec.getLsbD, Nat.testBit_zero] using hc
    exact BitVec.eq_of_toNat_eq (show c.toNat = 0 by omega)
  · rw [crcShift_of_odd hc, BitVec.xor_eq_zero_iff] at h
    have hpoly : c.toNat / 2 = 0xEDB88320 := by rw [← hhalf, h]; rfl
    have hlt : c.toNat < 2 ^ 32 := c.isLt
    omega

theorem crcShift_injective : Function.Injective crcShift := fun c d h =>
  BitVec.xor_eq_zero_iff.1 (eq_zero_of_crcShift_eq_zero (by rw [crcShift_xor, h, BitVec.xor_self]))

theorem crcShift8_xor (c d : Crc) : crcShift8 (c ^^^ d) = crcShift8 c ^^^ crcShift8 d := by
  simp only [crcShift8, crcShift_xor]

theorem crcShift8_injective : Function.Injective crcShift8 := crcShift_injective.iterate 8

/-- Without a one in the low byte no shift step takes the polynomial in. -/
theorem crcShift8_of_low_zero {c : Crc} (h : ∀ i, i < 8 → c.getLsbD i = false) : crcShift8 c = c >>> 8 := by
  have hstep {i : Nat} (hi : i < 8) : crcShift (c >>> i) = c >>> (i + 1) := by
    rw [crcShift_of_even (by simpa using h i hi), BitVec.shiftRight_add]
  have hfirst : crcShift c = c >>> 1 := crcShift_of_even (h 0 (by omega))
  simp only [crcShift8, hfirst, hstep, Nat.reduceLT, Nat.reduceAdd]

/-! ## The table form (R84) -/

/-- The byte meets the low byte of the register, and the rest of the register is shifted down unchanged. -/
theorem crcByteTable_eq_crcByte (c : Crc) (b : Byte) : crcByteTable c b = crcByte c b := by
  have hsplit : c ^^^ b.setWidth 32 = (c >>> 8) <<< 8 ^^^ (c.setWidth 8 ^^^ b).setWidth 32 := by
    refine BitVec.eq_of_getLsbD_eq fun i hi => ?_
    by_cases h8 : i < 8
    · simp [h8, hi]
    · simp [h8, hi, show 8 + (i - 8) = i by omega]
  have hlow : crcShift8 ((c >>> 8) <<< 8) = c >>> 8 := by
    rw [crcShift8_of_low_zero fun i hi => by simp [hi]]
    refine BitVec.eq_of_getLsbD_eq fun i hi => ?_
    by_cases h24 : 8 + i < 32
    · simp [h24]
    · simp [h24, BitVec.getLsbD_of_ge c (8 + i) (by omega)]
  rw [crcByte, hsplit, crcShift8_xor, hlow, crcByteTable, crcTable]

/-- Settles O40, by the two forms of the loop body being one function; the entries are evaluated. -/
theorem crcTableFormEqualsBitwise : Obligations.CrcTableFormEqualsBitwise := by
  unfold Obligations.CrcTableFormEqualsBitwise
  have hbody : crcByteTable = crcByte := funext fun c => funext (crcByteTable_eq_crcByte c)
  refine ⟨fun init xorOut m => ?_, by decide, by decide, by decide, by decide, fun b => ?_⟩
  · rw [crc32Table, crc32With, crcRun, hbody]
  · simp [crc32, crc32With, crcRun, crcByte, crcTable, crcInit, crcXorOut]

/-- Settles O39, by evaluation. -/
theorem crcVectors : Obligations.CrcVectors := by
  unfold Obligations.CrcVectors
  simp [crc32, crc32With, crcRun, crcByte, crcShift8, crcShift, crcPoly, crcInit, crcXorOut]

/-! ## Up to four bytes enter the register as one little-endian number (R92) -/

theorem crcShift8_iterate_xor (n : Nat) (c d : Crc) :
    crcShift8^[n] (c ^^^ d) = crcShift8^[n] c ^^^ crcShift8^[n] d := by
  induction n generalizing c d with
  | zero => rfl
  | succ n ih => rw [Function.iterate_succ_apply, crcShift8_xor, ih]; rfl

/-- A number that is `n` bytes above the low end comes down to it. -/
theorem crcShift8_iterate_two_pow_mul {n v : Nat} (h : 2 ^ (8 * n) * v < 2 ^ 32) :
    crcShift8^[n] (BitVec.ofNat 32 (2 ^ (8 * n) * v)) = BitVec.ofNat 32 v := by
  induction n with
  | zero => simp
  | succ n ih =>
    have hpow : 2 ^ (8 * (n + 1)) * v = 2 ^ 8 * (2 ^ (8 * n) * v) := by ring
    rw [hpow] at h ⊢
    have hdown : crcShift8 (BitVec.ofNat 32 (2 ^ 8 * (2 ^ (8 * n) * v))) = BitVec.ofNat 32 (2 ^ (8 * n) * v) := by
      rw [crcShift8_of_low_zero fun i hi => by
        rw [BitVec.getLsbD_ofNat, Nat.testBit_two_pow_mul, decide_eq_false (not_le.2 hi), Bool.false_and,
          Bool.and_false]]
      refine BitVec.eq_of_toNat_eq ?_
      rw [BitVec.toNat_ushiftRight, BitVec.toNat_ofNat, BitVec.toNat_ofNat, Nat.mod_eq_of_lt h,
        Nat.mod_eq_of_lt (by omega), Nat.shiftRight_eq_div_pow, Nat.mul_div_cancel_left _ (by decide)]
    rw [Function.iterate_succ_apply, hdown, ih (by omega)]

/-- A number below `2 ^ i` and a multiple of `2 ^ i` share no bit. -/
theorem add_mul_two_pow_eq_xor {x i : Nat} (h : x < 2 ^ i) (a : Nat) : x + a * 2 ^ i = x ^^^ 2 ^ i * a := by
  refine Nat.eq_of_testBit_eq fun j => ?_
  rw [Nat.add_comm, Nat.mul_comm, Nat.testBit_two_pow_mul_add a h, Nat.testBit_xor, Nat.testBit_two_pow_mul]
  split_ifs with hj
  · simp [not_le.2 hj]
  · have hx : x.testBit j = false :=
      Nat.testBit_lt_two_pow (h.trans_le (Nat.pow_le_pow_right (by decide) (not_lt.1 hj)))
    simp [hx, not_lt.1 hj]

theorem Wire.field_lt (f : List Byte) (a n : Nat) : Wire.field f a n < 2 ^ (8 * n) := by
  induction n with
  | zero => simp [Wire.field]
  | succ n ih =>
    rw [Wire.field, Nat.mul_succ, pow_add]
    have hbyte : (Wire.byteAt f (a + n)).toNat < 2 ^ 8 := BitVec.isLt _
    nlinarith

theorem crcRun_append (c : Crc) (m n : List Byte) : crcRun c (m ++ n) = crcRun (crcRun c m) n := List.foldl_append

/-- The register after a field of at most four bytes: the field enters as one little-endian number, then its bytes are
shifted through. -/
theorem crcRun_take_add {f : List Byte} {a n : Nat} (c : Crc) (hn : n ≤ 4) (h : a + n ≤ f.length) :
    crcRun c (f.take (a + n)) = crcShift8^[n] (crcRun c (f.take a) ^^^ BitVec.ofNat 32 (Wire.field f a n)) := by
  induction n with
  | zero => simp [Wire.field]
  | succ n ih =>
    have hlast : a + n < f.length := h
    have hbyte : (Wire.byteAt f (a + n)).toNat < 2 ^ 8 := BitVec.isLt _
    have hroom : 2 ^ (8 * n) * (Wire.byteAt f (a + n)).toNat < 2 ^ 32 := calc
      _ < 2 ^ (8 * n) * 2 ^ 8 := Nat.mul_lt_mul_of_pos_left hbyte (by positivity)
      _ = 2 ^ (8 * n + 8) := (pow_add 2 _ _).symm
      _ ≤ 2 ^ 32 := Nat.pow_le_pow_right (by decide) (by omega)
    have hfield : BitVec.ofNat 32 (Wire.field f a (n + 1)) = BitVec.ofNat 32 (Wire.field f a n) ^^^
        BitVec.ofNat 32 (2 ^ (8 * n) * (Wire.byteAt f (a + n)).toNat) := by
      rw [Wire.field, add_mul_two_pow_eq_xor (Wire.field_lt f a n), BitVec.ofNat_xor]
    have hdown : crcShift8^[n] (BitVec.ofNat 32 (2 ^ (8 * n) * (Wire.byteAt f (a + n)).toNat)) =
        (Wire.byteAt f (a + n)).setWidth 32 := (crcShift8_iterate_two_pow_mul hroom).trans (BitVec.ofNat_toNat 32 _)
    rw [← Nat.add_assoc, Wire.take_succ hlast, crcRun_append, ih (by omega) hlast.le, hfield, ← BitVec.xor_assoc,
      Function.iterate_succ_apply', crcShift8_iterate_xor n (_ ^^^ _), hdown]
    rfl

theorem crcShift8_iterate_eq_zero_iff {n : Nat} {c : Crc} : crcShift8^[n] c = 0#32 ↔ c = 0#32 := by
  have hzero : crcShift8^[n] 0#32 = 0#32 := Function.iterate_fixed (by decide) n
  exact ⟨fun h => crcShift8_injective.iterate n (h.trans hzero.symm), fun h => h ▸ hzero⟩

theorem crc32_eq_crcRun (m : List Byte) : crc32 m = crcRun crcInit m := BitVec.xor_zero

/-- The residue (R92): four bytes more bring the register to zero exactly when they hold what it held. -/
theorem crc32_take_add_four_eq_zero_iff {f : List Byte} {n : Nat} (h : n + 4 ≤ f.length) :
    crc32 (f.take (n + 4)) = 0#32 ↔ Wire.field f n 4 = (crc32 (f.take n)).toNat := by
  rw [crc32_eq_crcRun, crcRun_take_add crcInit le_rfl h, crcShift8_iterate_eq_zero_iff, BitVec.xor_eq_zero_iff,
    ← crc32_eq_crcRun, BitVec.toNat_eq, BitVec.toNat_ofNat, Nat.mod_eq_of_lt (Wire.field_lt f n 4), eq_comm]

theorem State.byteAt_bytes (s : State) {i n : Nat} (hi : i < n) : Wire.byteAt (s.bytes n) i = s.readByte i := by
  simp [Wire.byteAt, State.bytes, hi]

theorem State.take_bytes (s : State) {m n : Nat} (h : m ≤ n) : (s.bytes n).take m = s.bytes m :=
  (State.bytes_eq_take (by simpa using h) fun _ hi => (s.byteAt_bytes (by omega)).symm).symm

/-- Settles O41: the trailer is the last field of the frame, and its four bytes leave zero in the register only where it
held their number. -/
theorem crcResidueIsZero : Obligations.CrcResidueIsZero := by
  unfold Obligations.CrcResidueIsZero
  intro s
  have htrailer : s.memRead s.len 4 = Wire.field (s.bytes (s.len + 4)) s.len 4 :=
    State.memRead_eq_field 4 fun k hk => (s.byteAt_bytes (by omega)).symm
  have hresidue := crc32_take_add_four_eq_zero_iff (f := s.bytes (s.len + 4)) (n := s.len) (by simp)
  rwa [s.take_bytes le_rfl, s.take_bytes (Nat.le_add_right _ 4), ← htrailer] at hresidue

end Sys2Proof.Machine
end

section
/-! # The verdict on a frame, whole or corrupted (42_crc_validator.md R85 to R91, R96) -/

namespace Sys2Proof.Machine

/-! ## The output of the completing byte -/

theorem State.verdict_of_crc_ne {s : State} (h : (crc32 (s.bytes s.len)).toNat ≠ s.memRead s.len 4) :
    s.verdict = Output.error .crc :=
  if_pos fun heq => h (s.crcCalc_eq_trailer_iff.1 heq).symm

theorem State.verdict_of_crc_eq {s : State} (h : (crc32 (s.bytes s.len)).toNat = s.memRead s.len 4) :
    s.verdict = if s.memRead 14 2 = 0 then Output.error .week else Output.accepted s.frameBundle := by
  rw [State.verdict, if_neg (not_not.2 (s.crcCalc_eq_trailer_iff.2 h.symm))]
  simp only [s.week_eq_zero_iff]

/-- Settles O26: the premises leave completion as the only end of the byte, and what the step writes beside the stored
byte, `nbyte` and the output is nothing. -/
theorem completingByteGivesVerdict : Obligations.CompletingByteGivesVerdict := by
  unfold Obligations.CompletingByteGivesVerdict
  intro s b h10 hlast hroom
  have hexec : exec (.byte b) s = .next (s.storeNext b).afterStore := execByte_of_accumulate b (by omega) hroom
  rcases s.accumulate_cases b with ⟨-, hmore, -⟩ | ⟨h9, -, -⟩ | ⟨-, -, heq⟩
  · rw [State.lenAfter_of_ne_nine b (by omega)] at hmore
    omega
  · omega
  · rw [heq] at hexec
    refine ⟨_, hexec, rfl, rfl, rfl, rfl, rfl, rfl, by simp, fun a ha => by simp [ha], ?_⟩
    split_ifs with hcrc hweek
    · exact congrArg some (State.verdict_of_crc_ne hcrc)
    · exact congrArg some ((State.verdict_of_crc_eq (not_not.1 hcrc)).trans (if_pos hweek))
    · exact ⟨_, congrArg some ((State.verdict_of_crc_eq (not_not.1 hcrc)).trans (if_neg hweek))⟩

theorem downstreamValue_mem (c : Config.DownstreamCode) : downstreamValue c ∈ ([-1, 0, 1, 2, 3, 9] : List Int) := by
  cases c <;> decide

/-- Settles O9, by the four values of the status. -/
theorem compositeReturnCodes : Obligations.CompositeReturnCodes := by
  unfold Obligations.CompositeReturnCodes
  intro o k
  refine ⟨fun h => ?_, fun h => ?_, fun h => ?_, fun h => ?_⟩
  · rw [compositeReturn, h]
  · rw [compositeReturn, h]
  · rw [compositeReturn, h]
  · rw [compositeReturn, h]
    exact downstreamValue_mem _

/-! ## Frames that fail a check -/

theorem Wire.verdict_of_trailer_wrong {f : List Byte} (h : ¬ Wire.trailerOk f) :
    Wire.verdict f = Output.error .crc := if_pos h

theorem Wire.verdict_of_week_zero {f : List Byte} (h : Wire.trailerOk f) (hweek : Wire.week f = 0) :
    Wire.verdict f = Output.error .week :=
  (if_neg (not_not.2 h)).trans (if_pos hweek)

/-- A frame that fits with a wrong trailer, whatever its week (42_crc_validator.md R86, R91). -/
theorem feedBytes_of_trailer_wrong {s : State} {f : List Byte} (hinv : s.Inv) (h0 : s.nbyte = 0) (hf : Wire.isFrame f)
    (hfits : f.length ≤ s.buf.size) (h : ¬ Wire.trailerOk f) : ∃ t, feedBytes f s =
      .next (List.replicate (f.length - 1) Output.quiet ++ [⟨.err, .crc, none⟩], t) ∧ t.nbyte = 0 := by
  obtain ⟨t, hfeed, -, hnbyte, -⟩ := feedBytes_frame hinv h0 hf hfits
  rw [Wire.verdict_of_trailer_wrong h] at hfeed
  exact ⟨t, hfeed, hnbyte⟩

/-- Settles O45: the last byte of a frame that fits gives the verdict on its bytes. -/
theorem badFramesAreRejected : Obligations.BadFramesAreRejected := by
  unfold Obligations.BadFramesAreRejected
  intro s f hinv h0 hf hfits
  refine ⟨feedBytes_of_trailer_wrong hinv h0 hf hfits, fun hok hweek => ?_⟩
  obtain ⟨t, hfeed, -, hnbyte, -⟩ := feedBytes_frame hinv h0 hf hfits
  rw [Wire.verdict_of_week_zero hok hweek] at hfeed
  exact ⟨t, hfeed, hnbyte⟩

/-! ## A corruption of at most four bytes changes the register (R96) -/

theorem crcRun_injective (m : List Byte) : Function.Injective (crcRun · m) := by
  induction m with
  | nil => exact fun _ _ h => h
  | cons b m ih => exact fun c d h => (BitVec.xor_left_inj _).1 (crcShift8_injective (ih h))

/-- Two sequences with the same number in their first `n` bytes have the same first `n` bytes. -/
theorem Wire.take_eq_of_field_eq {f g : List Byte} {n : Nat} (hf : n ≤ f.length) (hg : n ≤ g.length)
    (h : Wire.field f 0 n = Wire.field g 0 n) : f.take n = g.take n := by
  induction n with
  | zero => rfl
  | succ n ih =>
    have hpos : 0 < 2 ^ (8 * n) := by positivity
    have hflow := Wire.field_lt f 0 n
    have hglow := Wire.field_lt g 0 n
    rw [Wire.field, Wire.field, Nat.zero_add] at h
    have hlow : Wire.field f 0 n = Wire.field g 0 n := by
      have hmod := congrArg (· % 2 ^ (8 * n)) h
      simpa only [Nat.add_mul_mod_self_right, Nat.mod_eq_of_lt hflow, Nat.mod_eq_of_lt hglow] using hmod
    have hbyte : Wire.byteAt f n = Wire.byteAt g n :=
      BitVec.eq_of_toNat_eq (Nat.eq_of_mul_eq_mul_right hpos (Nat.add_left_cancel (hlow ▸ h)))
    rw [Wire.take_succ hf, Wire.take_succ hg, ih (by omega) (by omega) hlow, hbyte]

/-- From one register at most four bytes reach another register only as themselves. -/
theorem eq_of_crcRun_eq {f g : List Byte} {c : Crc} (hlength : f.length = g.length) (h4 : f.length ≤ 4)
    (h : crcRun c f = crcRun c g) : f = g := by
  have hrun {m : List Byte} (hm : m.length ≤ 4) :
      crcRun c m = crcShift8^[m.length] (c ^^^ BitVec.ofNat 32 (Wire.field m 0 m.length)) := by
    simpa [crcRun] using crcRun_take_add (f := m) (a := 0) c hm (Nat.zero_add _).le
  have hsmall (m : List Byte) : Wire.field m 0 f.length < 2 ^ 32 :=
    (Wire.field_lt m 0 f.length).trans_le (Nat.pow_le_pow_right (by decide) (by omega))
  rw [hrun h4, hrun (hlength ▸ h4), ← hlength] at h
  have hfield := congrArg BitVec.toNat ((BitVec.xor_right_inj c).1 (crcShift8_injective.iterate _ h))
  rw [BitVec.toNat_ofNat, BitVec.toNat_ofNat, Nat.mod_eq_of_lt (hsmall f), Nat.mod_eq_of_lt (hsmall g)] at hfield
  have htake := Wire.take_eq_of_field_eq le_rfl hlength.le hfield
  rwa [List.take_length, hlength, List.take_length] at htake

/-- The bytes before the burst, the burst, and the bytes after it. -/
theorem burst_split (f : List Byte) (k : Nat) : f = f.take k ++ ((f.drop k).take 4 ++ f.drop (k + 4)) := by
  rw [← List.drop_drop, List.take_append_drop, List.take_append_drop]

/-- No two sequences that differ within four consecutive bytes alone have the same CRC. -/
theorem eq_of_crc32_eq_of_burst {f g : List Byte} {k : Nat} (hlength : g.length = f.length)
    (hout : ∀ i, i < k ∨ k + 4 ≤ i → g[i]? = f[i]?) (h : crc32 g = crc32 f) : g = f := by
  have hbefore : g.take k = f.take k := List.ext_getElem? fun i => by
    rw [List.getElem?_take, List.getElem?_take]
    split_ifs with hi
    · exact hout i (.inl hi)
    · rfl
  have hafter : g.drop (k + 4) = f.drop (k + 4) := List.ext_getElem? fun i => by
    rw [List.getElem?_drop, List.getElem?_drop, hout _ (.inr (Nat.le_add_right _ i))]
  rw [crc32_eq_crcRun, crc32_eq_crcRun, burst_split g k, burst_split f k, hbefore, hafter, crcRun_append, crcRun_append,
    crcRun_append, crcRun_append] at h
  have hburst : (g.drop k).take 4 = (f.drop k).take 4 :=
    eq_of_crcRun_eq (by simp [hlength]) (by simp) (crcRun_injective _ h)
  rw [burst_split g k, burst_split f k, hbefore, hburst, hafter]

/-! ## A corrupted frame (R96) -/

theorem Wire.trailerOk_iff_crc32_eq_zero {f : List Byte} (hf : Wire.isFrame f) : Wire.trailerOk f ↔ crc32 f = 0#32 := by
  have hlength := Wire.length_of_isFrame hf
  have hwhole : f.take (Wire.frameSize f + 4) = f := List.take_of_length_le hlength.le
  rw [Wire.trailerOk, ← crc32_take_add_four_eq_zero_iff hlength.ge, hwhole]

/-- The bytes that make a sequence a frame are those of the sync and of the length. -/
theorem Wire.isFrame_of_same_sync_and_length {f g : List Byte} (hf : Wire.isFrame f) (hlength : g.length = f.length)
    (h : ∀ i, i ∈ [0, 1, 2, 8, 9] → g[i]? = f[i]?) : Wire.isFrame g := by
  have hsync : g.take 3 = f.take 3 := List.ext_getElem? fun i => by
    rw [List.getElem?_take, List.getElem?_take]
    split_ifs with hi
    · interval_cases i <;> exact h _ (by decide)
    · rfl
  have hbyte {i : Nat} (hi : i ∈ [0, 1, 2, 8, 9]) : Wire.byteAt g i = Wire.byteAt f i := by
    rw [Wire.byteAt, Wire.byteAt, List.getD_eq_getElem?_getD, List.getD_eq_getElem?_getD, h i hi]
  have hsize : Wire.frameSize g = Wire.frameSize f := by
    rw [Wire.frameSize, Wire.frameSize, Wire.bodyLen_eq, Wire.bodyLen_eq, hbyte (by decide), hbyte (by decide)]
  exact ⟨hsync.trans hf.1, by rw [hlength, hsize, hf.2]⟩

/-- Settles O47: what is corrupted is a frame still, and its CRC is no longer the zero of a correct frame. -/
theorem shortBurstIsDetected : Obligations.ShortBurstIsDetected := by
  unfold Obligations.ShortBurstIsDetected
  intro s f g k hinv h0 hf hok hfits hlength hne hout hkept
  have hg : Wire.isFrame g := Wire.isFrame_of_same_sync_and_length hf hlength hkept
  refine feedBytes_of_trailer_wrong hinv h0 hg (hlength.symm ▸ hfits) fun hgok => hne ?_
  rw [Wire.trailerOk_iff_crc32_eq_zero hf] at hok
  rw [Wire.trailerOk_iff_crc32_eq_zero hg] at hgok
  exact eq_of_crc32_eq_of_burst hlength hout (hgok.trans hok.symm)

end Sys2Proof.Machine
end

section
/-! # An incremental CRC register gives the block's outputs (42_crc_validator.md R93) -/

namespace Sys2Proof.Machine

/-! ## The covered bytes, counted and stored -/

theorem crcAfterSync_eq : crcAfterSync = 0xB34323FF#32 := by
  obtain ⟨-, -, hsync, -⟩ := crcVectors
  exact (crc32_eq_crcRun syncBytes).symm.trans hsync

theorem State.bytes_three_of_inv {s : State} (h : s.Inv) (h3 : 3 ≤ s.nbyte) : s.bytes 3 = syncBytes := by
  obtain ⟨hr₀, hr₁, hr₂⟩ := h.syncHeld h3
  simp [State.bytes, List.range_succ, hr₀, hr₁, hr₂, syncBytes]

/-- A store at `nbyte` is beyond the first `n` bytes. -/
theorem State.bytes_storeNext {s : State} (b : Byte) {n : Nat} (h : n ≤ s.nbyte) : (s.storeNext b).bytes n = s.bytes n :=
  State.bytes_congr fun i hi => by simp [show i ≠ s.nbyte by omega]

theorem State.coveredCount_le (s : State) : s.coveredCount ≤ s.nbyte := by
  unfold State.coveredCount
  split_ifs
  · exact le_rfl
  · exact min_le_left _ _

/-- The byte to come is covered: so are all bytes held. -/
theorem State.coveredCount_of_covers {s : State} (h : s.covers = true) : s.coveredCount = s.nbyte := by
  have hcovers : s.nbyte < 10 ∨ s.nbyte < s.len := of_decide_eq_true h
  unfold State.coveredCount
  split_ifs
  · rfl
  · omega

theorem State.coveredCount_of_not_covers {s : State} (h : s.covers = false) : s.coveredCount = s.len := by
  have hcovers : ¬ (s.nbyte < 10 ∨ s.nbyte < s.len) := of_decide_eq_false h
  unfold State.coveredCount
  rw [if_neg (by omega)]
  omega

/-- A byte that leaves the frame incomplete adds to the covered bytes exactly when it is one of them (R87): the length it
may bring is 28 or more. -/
theorem State.coveredCount_setLen_storeNext (s : State) (b : Byte) :
    ((s.storeNext b).setLen (s.lenAfter b)).coveredCount = if s.covers then s.nbyte + 1 else s.coveredCount := by
  have hcount : ((s.storeNext b).setLen (s.lenAfter b)).coveredCount =
      if s.nbyte + 1 < 10 then s.nbyte + 1 else min (s.nbyte + 1) (s.lenAfter b) := rfl
  cases hcovers : s.covers
  · have h : ¬ (s.nbyte < 10 ∨ s.nbyte < s.len) := of_decide_eq_false hcovers
    rw [hcount, if_neg Bool.false_ne_true, State.coveredCount_of_not_covers hcovers, if_neg (by omega),
      State.lenAfter_of_ne_nine b (by omega)]
    omega
  · have h : s.nbyte < 10 ∨ s.nbyte < s.len := of_decide_eq_true hcovers
    rw [hcount, if_pos rfl]
    by_cases h9 : s.nbyte = 9
    · rw [State.lenAfter_of_nine b h9, if_neg (by omega)]
      omega
    · rw [State.lenAfter_of_ne_nine b h9]
      split_ifs <;> omega

/-! ## The register follows the covered bytes -/

/-- The register is that of the covered bytes, with the byte just stored (R93). -/
theorem IncState.Tracks.nextReg_eq {s : IncState} (h : s.Tracks) (h3 : 3 ≤ s.base.nbyte) (b : Byte) :
    s.nextReg b = crcRun crcInit ((s.base.storeNext b).bytes
      ((s.base.storeNext b).setLen (s.base.lenAfter b)).coveredCount) := by
  rw [State.coveredCount_setLen_storeNext, IncState.nextReg]
  split_ifs with hcovers
  · rw [State.bytes_succ, State.bytes_storeNext b le_rfl, crcRun_append, h h3, State.coveredCount_of_covers hcovers]
    simp [crcRun]
  · rw [State.bytes_storeNext b s.base.coveredCount_le, h h3]

/-- On the byte that completes a frame the register is the CRC that the block computes then (R86). -/
theorem IncState.Tracks.nextReg_of_complete {s : IncState} (h : s.Tracks) (b : Byte)
    (h10 : 10 ≤ s.base.nbyte) (hdone : s.base.len + 4 ≤ s.base.nbyte + 1) :
    s.nextReg b ^^^ crcXorOut = ((s.base.storeNext b).setNbyte 0).crcCalc := by
  have hcovers : s.base.covers = false := decide_eq_false (by omega)
  rw [h.nextReg_eq (by omega) b, State.coveredCount_setLen_storeNext, if_neg (by simp [hcovers]),
    State.coveredCount_of_not_covers hcovers]
  rfl

theorem State.completeWith_congr {s : State} {v w : State → State}
    (h : 10 ≤ s.nbyte → s.len + 4 ≤ s.nbyte → v (s.setNbyte 0) = w (s.setNbyte 0)) :
    s.completeWith v = s.completeWith w := by
  unfold State.completeWith
  split_ifs with hmore
  · rfl
  · simp only [State.incomplete, decide_eq_true_eq, not_or, not_lt] at hmore
    obtain ⟨h10, hdone⟩ := hmore
    exact h h10 hdone

/-- The framer uses the verdict on a complete frame alone, and the tenth byte completes none (41_framer.md R73). -/
theorem State.afterStoreWith_congr {s : State} {v w : State → State}
    (h : 10 < s.nbyte → s.len + 4 ≤ s.nbyte → v (s.setNbyte 0) = w (s.setNbyte 0)) :
    s.afterStoreWith v = s.afterStoreWith w := by
  unfold State.afterStoreWith
  split_ifs with h10
  · have hlong : s.readLength.nbyte < s.readLength.len + 4 := by
      change s.nbyte < 28 + s.memRead 8 2 + 4
      omega
    have hread : s.readLength.completeWith v = s.readLength.completeWith w :=
      State.completeWith_congr fun _ hdone => absurd hdone (not_le.2 hlong)
    simp only [hread]
  · exact State.completeWith_congr fun hten hdone => h (by omega) hdone

/-! ## The obligation -/

theorem IncState.exec_byte_of_hunt {s : IncState} (b : Byte) (h0 : s.base.nbyte = 0) :
    s.exec (.byte b) = .next ⟨s.base.hunt b, if s.base.completesSync b then crcAfterSync else s.crcReg⟩ := if_pos h0

theorem IncState.exec_byte_of_accumulate {s : IncState} (b : Byte) (h0 : s.base.nbyte ≠ 0)
    (hroom : s.base.nbyte < s.base.buf.size) : s.exec (.byte b) =
      .next ⟨(s.base.storeNext b).afterStoreWith (State.validateWith (s.nextReg b ^^^ crcXorOut)), s.nextReg b⟩ :=
  (if_neg h0).trans (if_pos hroom)

/-- Sync detection restarts the register; any other hunt byte leaves no frame to track. -/
theorem IncState.tracks_hunt {s : IncState} (hinv : s.base.Inv) (h0 : s.base.nbyte = 0) (b : Byte) :
    IncState.Tracks ⟨s.base.hunt b, if s.base.completesSync b then crcAfterSync else s.crcReg⟩ := by
  intro h3
  by_cases hsync : s.base.win.shift b = Window.sync
  · have hcount : (s.base.hunt b).coveredCount = 3 := by
      rw [State.coveredCount, State.hunt_nbyte_of_sync hsync, if_pos (by decide)]
    rw [hcount, State.bytes_three_of_inv (hinv.hunt h0 b) h3, State.completesSync, if_pos (beq_iff_eq.2 hsync),
      crcAfterSync]
  · rw [State.hunt_nbyte_of_no_sync hsync, h0] at h3
    omega

theorem IncState.Tracks.accumulate {s : IncState} (h : s.Tracks) (h3 : 3 ≤ s.base.nbyte) (b : Byte) :
    IncState.Tracks ⟨(s.base.storeNext b).afterStore, s.nextReg b⟩ := by
  intro h3'
  rcases s.base.accumulate_cases b with ⟨-, -, heq⟩ | ⟨-, -, heq⟩ | ⟨-, -, heq⟩
  · simp only [heq]
    exact h.nextReg_eq h3 b
  · simp [heq, State.raiseFrameError] at h3'
  · simp [heq] at h3'

/-- Settles O42, by the transaction: a control transaction leaves no frame or the same one, and in ACCUMULATE the framer
asks for the CRC on the completing byte alone, where the register holds it. -/
theorem incrementalCrcRefines : Obligations.IncrementalCrcRefines := by
  unfold Obligations.IncrementalCrcRefines
  refine ⟨crcAfterSync_eq, fun i s hinv h => ?_⟩
  cases i with
  | nop => exact ⟨_, rfl, rfl, h⟩
  | eoi => exact ⟨_, rfl, rfl, fun h3 => absurd h3 (by simp)⟩
  | reset => exact ⟨_, rfl, rfl, fun h3 => absurd h3 (by simp)⟩
  | byte b =>
    by_cases h0 : s.base.nbyte = 0
    · exact ⟨_, IncState.exec_byte_of_hunt b h0, exec_byte_of_hunt b h0, IncState.tracks_hunt hinv h0 b⟩
    · have hsame : (s.base.storeNext b).afterStoreWith (State.validateWith (s.nextReg b ^^^ crcXorOut)) =
          (s.base.storeNext b).afterStore :=
        State.afterStoreWith_congr fun h10 hdone => by
          rw [h.nextReg_of_complete b (Nat.le_of_lt_succ h10) hdone, State.validate]
      refine ⟨_, IncState.exec_byte_of_accumulate b h0 hinv.nbyte_lt_size, ?_, ?_⟩
      · rw [hsame]
        exact execByte_of_accumulate b h0 hinv.nbyte_lt_size
      · rw [hsame]
        exact h.accumulate (hinv.three_le h0) b

end Sys2Proof.Machine
end

section
/-! # The control transactions, and what no transaction reads (43_control.md R97 to R99, R103, R104) -/

namespace Sys2Proof.Machine

/-! ## The output of the last step is read by no transaction (log entry 7) -/

/-- The state with another output of the step just taken. -/
def State.setOut (s : State) (o : Option Output) : State := { s with out := o }

theorem State.hunt_setOut (s : State) (o : Option Output) (b : Byte) : (s.setOut o).hunt b = s.hunt b := by
  rcases s.hunt_cases b with ⟨hsync, h⟩ | ⟨hsync, h⟩
  · exact (State.hunt_of_sync (s := s.setOut o) hsync).trans h.symm
  · exact (State.hunt_of_no_sync (s := s.setOut o) hsync).trans h.symm

/-- Every end of an ACCUMULATE step gives its own output. -/
theorem State.afterStore_setOut (s : State) (o : Option Output) : (s.setOut o).afterStore = s.afterStore := rfl

theorem exec_setOut (i : Instr) (s : State) (o : Option Output) : exec i (s.setOut o) = exec i s := by
  cases i with
  | nop => rfl
  | eoi => rfl
  | reset => rfl
  | byte b =>
    rcases execByte_cases b s with ⟨h0, h⟩ | ⟨h0, hroom, h⟩ | ⟨h0, hfull, h⟩
    · rw [exec_byte, exec_byte, h, execByte_of_hunt (s := s.setOut o) b h0, State.hunt_setOut]
    · rw [exec_byte, exec_byte, h, execByte_of_accumulate (s := s.setOut o) b h0 hroom]
      exact congrArg _ (State.afterStore_setOut (s.storeNext b) o)
    · rw [exec_byte, exec_byte, h]
      exact (if_neg h0).trans (if_neg (not_lt.2 hfull))

theorem exec_emit (i : Instr) (s : State) (o : Output) : exec i (s.emit o) = exec i s := exec_setOut i s (some o)

/-! ## One transaction each -/

/-- Settles O12: the output is all that NOP writes. -/
theorem nopChangesNothing : Obligations.NopChangesNothing := by
  unfold Obligations.NopChangesNothing
  exact exec_nop

/-- Settles O13: EOI writes `nbyte`, the window and the output. -/
theorem eoiClearsFrameAndWindow : Obligations.EoiClearsFrameAndWindow := by
  unfold Obligations.EoiClearsFrameAndWindow
  exact exec_eoi

/-- Settles O14: RESET has one arm, and the free values it draws are those of `len` and `buf` alone. -/
theorem resetTransactionClears : Obligations.ResetTransactionClears := by
  unfold Obligations.ResetTransactionClears
  exact fun s => ⟨_, exec_reset s, rfl, rfl, rfl, rfl, rfl⟩

/-! ## After EOI and RESET (43_control.md R103, 92_eei_decisions.md D13) -/

/-- A fresh instance of a given capacity (10_state.md R29). -/
def State.fresh (size : Nat) : State := { State.reset with buf := ⟨size, []⟩ }

/-- In HUNT with the reset window all that a later output can depend on is the capacity (10_state.md R30). -/
theorem State.agrees_fresh {t : State} {size : Nat} (h0 : t.nbyte = 0) (hwin : t.win = Window.cleared)
    (hsize : t.buf.size = size) : t.Agrees (State.fresh size) :=
  ⟨h0, hwin, hsize, fun h10 => by omega, fun i hi => by omega⟩

/-- EOI and RESET leave a state that agrees with a fresh instance. -/
theorem exec_eoi_or_reset_agrees_fresh (s : State) {i : Instr} (hi : i = .eoi ∨ i = .reset) :
    ∃ t, exec i s = .next t ∧ t.Agrees (State.fresh s.buf.size) := by
  rcases hi with rfl | rfl
  · exact ⟨_, exec_eoi s, State.agrees_fresh rfl rfl rfl⟩
  · exact ⟨_, exec_reset s, State.agrees_fresh rfl rfl rfl⟩

/-- Settles O16: agreeing invariant states give the same outputs on every sequence. -/
theorem eoiAndResetActLikeFreshInstance : Obligations.EoiAndResetActLikeFreshInstance := by
  unfold Obligations.EoiAndResetActLikeFreshInstance
  intro s hinv i hi
  obtain ⟨t, hexec, hagree⟩ := exec_eoi_or_reset_agrees_fresh s hi
  have hfresh : (State.fresh s.buf.size).Inv := State.inv_of_hunt hinv.capacity (Memory.wf_nil _) rfl
  refine ⟨t, hexec, fun is => ?_⟩
  obtain ⟨os, u, v, hfeed, hfeed', hend⟩ :=
    unspecifiedValuesReachNoOutput is t _ (hinv.of_exec hexec) hfresh hagree
  exact ⟨os, u, v, hfeed, hfeed', hend.nbyte⟩

/-! ## Sequences without their NOPs (43_control.md R104) -/

/-- A sequence that runs to its end has run its first transaction, then the rest. -/
theorem feed_cons_inv {i : Instr} {is : List Instr} {s t : State} {os : List Output}
    (h : feed (i :: is) s = .next (os, t)) :
    ∃ v ps, exec i s = .next v ∧ feed is v = .next (ps, t) ∧ os = v.lastOutput :: ps := by
  cases hexec : exec i s with
  | next v =>
    cases hfeed : feed is v with
    | next p =>
      obtain ⟨ps, u⟩ := p
      have hpair := Host.Outcome.next.inj ((feed_cons hexec hfeed).symm.trans h)
      obtain ⟨rfl, rfl⟩ := Prod.mk.inj hpair
      exact ⟨v, ps, rfl, hfeed, rfl⟩
    | fault r => simp [feed, hexec, hfeed] at h
    | refused r => simp [feed, hexec, hfeed] at h
  | fault r => simp [feed, hexec] at h
  | refused r => simp [feed, hexec] at h

/-- Whether a transaction is no NOP. -/
def isActive (i : Instr) : Bool := decide (i ≠ .nop)

/-- The outputs of the transactions of a sequence that are no NOPs. -/
def activeOutputs (is : List Instr) (os : List Output) : List Output :=
  ((is.zip os).filter fun p => isActive p.1).map Prod.snd

/-- Leaving the NOPs out, from a state that may differ in the last output: a NOP makes no other difference. -/
theorem feed_filter_isActive {is : List Instr} {s t : State} {os : List Output} (o : Option Output)
    (h : feed is s = .next (os, t)) : ∃ u, feed (is.filter isActive) (s.setOut o) = .next (activeOutputs is os, u) ∧
      u.setOut none = t.setOut none := by
  induction is generalizing s os o with
  | nil =>
    obtain ⟨rfl, rfl⟩ := Prod.mk.inj (Host.Outcome.next.inj h)
    exact ⟨_, rfl, rfl⟩
  | cons i is ih =>
    obtain ⟨v, ps, hexec, hfeed, rfl⟩ := feed_cons_inv h
    by_cases hnop : i = .nop
    · subst hnop
      obtain rfl : s.emit Output.quiet = v := Host.Outcome.next.inj hexec
      exact ih (s := s.emit Output.quiet) o hfeed
    · have hactive : isActive i = true := decide_eq_true hnop
      obtain ⟨u, hrest, hend⟩ := ih v.out hfeed
      refine ⟨u, ?_, hend⟩
      rw [List.filter_cons_of_pos hactive, feed_cons ((exec_setOut i s o).trans hexec) hrest]
      simp [activeOutputs, hactive]

/-- Settles O17, by induction on the transactions: a NOP writes the output alone, which no transaction reads. -/
theorem nopsChangeNoOtherOutput : Obligations.NopsChangeNoOtherOutput := by
  unfold Obligations.NopsChangeNoOtherOutput
  exact fun _ s _ _ h => feed_filter_isActive s.out h

end Sys2Proof.Machine
end

section
/-! # File mode: FILE_STEP and the bulk reads (43_control.md R101, R102) -/

namespace Sys2Proof.Machine

/-! ## One byte of FILE_STEP -/

theorem fileEnd_eq (s : State) :
    fileEnd s = .next ⟨Output.endOfFile, ((s.setNbyte 0).setWin Window.cleared).emit Output.endOfFile, []⟩ := rfl

/-- An output of NONE: the loop goes on. -/
theorem fileStep_cons_of_none {b : Byte} {bs : List Byte} {s t : State} (h : exec (.byte b) s = .next t)
    (hnone : t.lastOutput.status = .none) : fileStep (b :: bs) s = fileStep bs t := by
  simp only [fileStep, h, hnone, if_true]

/-- Another output: the loop answers it. -/
theorem fileStep_cons_of_ne_none {b : Byte} {bs : List Byte} {s t : State} (h : exec (.byte b) s = .next t)
    (hne : t.lastOutput.status ≠ .none) : fileStep (b :: bs) s = .next (fileReturn t bs) := by
  simp only [fileStep, h, if_neg hne]

/-- FILE_STEP does not read the output of the step before it. -/
theorem fileStep_emit (bs : List Byte) (s : State) (o : Output) : fileStep bs (s.emit o) = fileStep bs s := by
  cases bs with
  | nil => rfl
  | cons b bs => simp only [fileStep, exec_emit]

/-- A byte that outputs NONE leaves its state to the rest of the loop, which does not read that output. -/
theorem fileStep_cons_of_quiet {b : Byte} {bs : List Byte} {s t : State}
    (h : exec (.byte b) s = .next (t.emit Output.quiet)) : fileStep (b :: bs) s = fileStep bs t :=
  (fileStep_cons_of_none h rfl).trans (fileStep_emit bs t _)

/-- Settles O50, by induction on the source: a byte that outputs NONE is read before the rest, the first other output is
the answer, and at the end of the source EOI answers. -/
theorem fileStepAnswersFirstOutput : Obligations.FileStepAnswersFirstOutput := by
  unfold Obligations.FileStepAnswersFirstOutput
  intro bs
  induction bs with
  | nil =>
    exact fun s _ => ⟨_, [], fileEnd_eq s, by simp, by simp [Output.endOfFile],
      .inr ⟨rfl, rfl, feed_cons (exec_eoi s) rfl⟩⟩
  | cons b bs ih =>
    intro s hinv
    obtain ⟨t, hexec, htinv⟩ := hinv.exec (.byte b)
    by_cases hnone : t.lastOutput.status = .none
    · obtain ⟨r, os, hstep, hquiet, hne, hread⟩ := ih t htinv
      refine ⟨r, t.lastOutput :: os, (fileStep_cons_of_none hexec hnone).trans hstep,
        List.forall_mem_cons.2 ⟨hnone, hquiet⟩, hne, ?_⟩
      rcases hread with ⟨read, rfl, hfeed⟩ | ⟨hrest, hout, hfeed⟩
      · exact .inl ⟨b :: read, rfl, feed_cons hexec hfeed⟩
      · exact .inr ⟨hrest, hout, feed_cons hexec hfeed⟩
    · exact ⟨_, [], fileStep_cons_of_ne_none hexec hnone, by simp, hnone, .inl ⟨[b], rfl, feed_cons hexec rfl⟩⟩

/-! ## Bytes stored in bulk -/

theorem State.storeBulk_cons (s : State) (b : Byte) (bs : List Byte) :
    s.storeBulk (b :: bs) = (s.storeNext b).storeBulk bs := rfl

theorem State.storeBulk_take_succ (s : State) {bs : List Byte} {k : Nat} (hk : k < bs.length) :
    s.storeBulk (bs.take (k + 1)) = (s.storeBulk (bs.take k)).storeNext bs[k] := by
  rw [State.storeBulk, ← List.take_append_getElem hk, List.foldl_append]
  rfl

@[simp] theorem State.storeBulk_nbyte (s : State) (bs : List Byte) : (s.storeBulk bs).nbyte = s.nbyte + bs.length := by
  induction bs generalizing s with
  | nil => rfl
  | cons b bs ih =>
    rw [State.storeBulk_cons, ih, State.storeNext_nbyte, List.length_cons]
    omega

@[simp] theorem State.storeBulk_len (s : State) (bs : List Byte) : (s.storeBulk bs).len = s.len := by
  induction bs generalizing s with
  | nil => rfl
  | cons b bs ih => rw [State.storeBulk_cons, ih, State.storeNext_len]

@[simp] theorem State.storeBulk_size (s : State) (bs : List Byte) : (s.storeBulk bs).buf.size = s.buf.size := by
  induction bs generalizing s with
  | nil => rfl
  | cons b bs ih => rw [State.storeBulk_cons, ih, State.storeNext_size]

/-- The next `k` bytes are only stored: there is room for them, none is the tenth, and none completes the frame
(41_framer.md R73). -/
structure State.OnlyStores (s : State) (k : Nat) : Prop where
  opened : s.nbyte ≠ 0
  room   : s.nbyte + k ≤ s.buf.size
  inside : s.nbyte + k ≤ 9 ∨ 10 ≤ s.nbyte ∧ s.nbyte + k < s.len + 4

theorem State.OnlyStores.exec_byte {s : State} {k : Nat} (h : s.OnlyStores (k + 1)) (b : Byte) :
    exec (.byte b) s = .next ((s.storeNext b).emit Output.quiet) := by
  have hroom := h.room
  have hinside := h.inside
  have hexec : exec (.byte b) s = .next (s.storeNext b).afterStore :=
    execByte_of_accumulate b h.opened (by omega)
  have h9 : s.nbyte ≠ 9 := by omega
  rcases s.accumulate_cases b with ⟨-, -, heq⟩ | ⟨hnine, -, -⟩ | ⟨h10, hdone, -⟩
  · rw [hexec, heq, State.lenAfter_of_ne_nine b h9]
    rfl
  · exact absurd hnine h9
  · omega

theorem State.OnlyStores.storeNext {s : State} {k : Nat} (h : s.OnlyStores (k + 1)) (b : Byte) :
    (s.storeNext b).OnlyStores k := by
  have hroom := h.room
  have hinside := h.inside
  refine ⟨Nat.succ_ne_zero _, ?_, ?_⟩
  · rw [State.storeNext_nbyte, State.storeNext_size]
    omega
  · rw [State.storeNext_nbyte, State.storeNext_len]
    omega

/-- FILE_STEP over bytes that are only stored goes on from the state in which they are stored in bulk. -/
theorem fileStep_append {bs : List Byte} (rest : List Byte) {s : State} (h : s.OnlyStores bs.length) :
    fileStep (bs ++ rest) s = fileStep rest (s.storeBulk bs) := by
  induction bs generalizing s with
  | nil => rfl
  | cons b bs ih => exact (fileStep_cons_of_quiet (h.exec_byte b)).trans (ih (h.storeNext b))

/-- A source that ends among such bytes: the EOI of a read that stops short. -/
theorem fileStep_of_short {bs : List Byte} {s : State} (h : s.OnlyStores bs.length) :
    fileStep bs s = fileEnd (s.storeBulk bs) := by
  have hstep := fileStep_append [] h
  rwa [List.append_nil] at hstep

/-- A source that goes on after `k` such bytes: the next byte meets the state in which they are stored. -/
theorem fileStep_of_long {bs : List Byte} {s : State} {k : Nat} (hk : k < bs.length) (h : s.OnlyStores k) :
    fileStep bs s = fileStep (bs[k] :: bs.drop (k + 1)) (s.storeBulk (bs.take k)) := by
  have hlength : (bs.take k).length = k := List.length_take_of_le hk.le
  rw [← fileStep_append _ (hlength.symm ▸ h), ← List.drop_eq_getElem_cons hk, List.take_append_drop]

/-! ## The remainder, the frame, and the whole file -/

theorem State.verdict_status_ne_none (s : State) : s.verdict.status ≠ .none := by
  unfold State.verdict
  split_ifs <;> simp [Output.error, Output.accepted]

/-- The byte that completes a frame ends the call with the verdict. -/
theorem fileStep_cons_of_complete {s : State} (b : Byte) (bs : List Byte) (h10 : 10 ≤ s.nbyte)
    (hlast : s.nbyte + 1 = s.len + 4) (hroom : s.nbyte < s.buf.size) :
    fileStep (b :: bs) s = .next (fileReturn ((s.storeNext b).setNbyte 0).validate bs) := by
  have hexec : exec (.byte b) s = .next (s.storeNext b).afterStore := execByte_of_accumulate b (by omega) hroom
  rcases s.accumulate_cases b with ⟨-, hmore, -⟩ | ⟨h9, -, -⟩ | ⟨-, -, heq⟩
  · rw [State.lenAfter_of_ne_nine b (by omega)] at hmore
    omega
  · omega
  · rw [heq, ← State.validate_of_hunt rfl] at hexec
    refine fileStep_cons_of_ne_none hexec ?_
    rw [State.validate_of_hunt rfl]
    exact State.verdict_status_ne_none _

/-- From the tenth byte on: all bytes of the remainder but its last are only stored. -/
theorem bulkRemainder_eq_fileStep {s : State} (bs : List Byte) (h10 : s.nbyte = 10) (hlong : 28 ≤ s.len)
    (hfits : ¬ s.tooLarge = true) : bulkRemainder bs s = fileStep bs s := by
  have hbound : s.len ≤ s.buf.size - 4 := not_lt.1 (mt decide_eq_true hfits)
  have hstores {k : Nat} (hk : k < s.len - 6) : s.OnlyStores k := ⟨by omega, by omega, by omega⟩
  by_cases hshort : bs.length < s.len - 6
  · simp only [bulkRemainder, if_pos hshort]
    rw [List.take_of_length_le hshort.le, fileStep_of_short (hstores hshort)]
  · have hlast : s.len - 7 < bs.length := by omega
    have hsucc : s.len - 6 = s.len - 7 + 1 := by omega
    have hheld : (s.storeBulk (bs.take (s.len - 7))).nbyte = s.len + 3 := by
      rw [State.storeBulk_nbyte, List.length_take_of_le hlast.le]
      omega
    have hroom : s.len + 3 < s.buf.size := by omega
    simp only [bulkRemainder, if_neg hshort]
    rw [fileStep_of_long hlast (hstores (by omega)), hsucc, State.storeBulk_take_succ s hlast,
      fileStep_cons_of_complete _ _ (by omega) (by rw [hheld, State.storeBulk_len])
        (by rwa [hheld, State.storeBulk_size])]

theorem State.tooLarge_readLength (s : State) :
    s.readLength.tooLarge = true ↔ s.buf.size - 4 < 28 + s.memRead 8 2 := decide_eq_true_iff

/-- The tenth byte reads the length, and the length check ends the call or lets it go on (41_framer.md R73, R74). -/
theorem fileStep_cons_of_nine {s : State} (b : Byte) (bs : List Byte) (h9 : s.nbyte = 9) (hroom : 9 < s.buf.size) :
    fileStep (b :: bs) s = if (s.storeNext b).readLength.tooLarge
      then .next (fileReturn ((s.storeNext b).readLength.raiseFrameError .len) bs)
      else fileStep bs (s.storeNext b).readLength := by
  have hexec : exec (.byte b) s = .next (s.storeNext b).afterStore := execByte_of_accumulate b (by omega) (by omega)
  have hten : (s.storeNext b).nbyte = 10 := congrArg (· + 1) h9
  have hlarge := (s.storeNext b).tooLarge_readLength
  rcases (s.storeNext b).afterStoreWith_cases State.validate with
    ⟨hlt, -⟩ | ⟨-, htoo, heq⟩ | ⟨-, hfits, heq⟩ | ⟨hgt, -⟩ | ⟨hgt, -⟩
  · omega
  · rw [if_pos (hlarge.2 htoo)]
    exact fileStep_cons_of_ne_none (hexec.trans (congrArg _ heq)) (by simp [State.raiseFrameError, Output.error])
  · rw [if_neg (mt hlarge.1 (not_lt.2 hfits))]
    exact fileStep_cons_of_quiet (hexec.trans (congrArg _ heq))
  · omega
  · omega

/-- After sync: the six bytes before the tenth are only stored. -/
theorem bulkFrame_eq_fileStep {s : State} (bs : List Byte) (h3 : s.nbyte = 3) (hcapacity : 32 ≤ s.buf.size) :
    bulkFrame bs s = fileStep bs s := by
  have hstores {k : Nat} (hk : k < 7) : s.OnlyStores k := ⟨by omega, by omega, by omega⟩
  by_cases hshort : bs.length < 7
  · simp only [bulkFrame, if_pos hshort]
    rw [List.take_of_length_le hshort.le, fileStep_of_short (hstores hshort)]
  · have hten : 6 < bs.length := by omega
    have htake : (bs.take 6).length = 6 := List.length_take_of_le hten.le
    have h9 : (s.storeBulk (bs.take 6)).nbyte = 9 := by rw [State.storeBulk_nbyte, h3, htake]
    have hroom : 9 < (s.storeBulk (bs.take 6)).buf.size := by rw [State.storeBulk_size]; omega
    simp only [bulkFrame, if_neg hshort]
    rw [fileStep_of_long hten (hstores (by omega)), fileStep_cons_of_nine _ _ h9 hroom,
      State.storeBulk_take_succ s hten]
    split_ifs with hlarge
    · rfl
    · exact bulkRemainder_eq_fileStep _ (congrArg (· + 1) h9) (Nat.le_add_right 28 _) hlarge

/-- Settles O51, by induction on the source: the sync search is the same byte by byte, and the frame it opens is read in
bulk as byte by byte. -/
theorem bulkReadsEqualFileStep : Obligations.BulkReadsEqualFileStep := by
  unfold Obligations.BulkReadsEqualFileStep
  intro bs
  induction bs with
  | nil => exact fun _ _ _ => rfl
  | cons b bs ih =>
    intro s hinv h0
    have hexec := exec_byte_of_hunt b h0
    have hbulk : fileStepBulk (b :: bs) s =
        if (s.hunt b).nbyte = 3 then bulkFrame bs (s.hunt b) else fileStepBulk bs (s.hunt b) := by
      simp only [fileStepBulk, hexec]
    rw [hbulk, fileStep_cons_of_none hexec rfl]
    by_cases hsync : s.win.shift b = Window.sync
    · have h3 : (s.hunt b).nbyte = 3 := State.hunt_nbyte_of_sync hsync
      rw [if_pos h3, bulkFrame_eq_fileStep bs h3 (hinv.hunt h0 b).capacity]
    · have hhunt : (s.hunt b).nbyte = 0 := (State.hunt_nbyte_of_no_sync hsync).trans h0
      rw [if_neg (by omega), ih _ (hinv.hunt h0 b) hhunt]

end Sys2Proof.Machine
end

section
/-! # Errors, end of file and progress (60_exceptions.md R106, R110, R111, R113, R121) -/

namespace Sys2Proof.Machine

/-! ## Every legal word steps -/

theorem decode_of_legal {w : TWord} (h : TWord.legal w = true) : ∃ i, decode w = .ok i := by
  have hfields : opField w = 0b01#2 ∨ dataField w = 0x00#8 := by
    simpa [TWord.legal, opField, dataField] using h
  rw [← wordOf_opField_dataField w, decode_wordOf]
  by_cases hbyte : opField w = 0b01#2
  · exact ⟨.byte (dataField w), if_pos hbyte⟩
  · exact ⟨controlInstr (opField w), by rw [if_neg hbyte, if_pos (hfields.resolve_left hbyte)]⟩

/-- Settles O37: a transaction always completes under the invariants; a legal word decodes to one, and taking the word
keeps the invariants. -/
theorem blockNeverSticks : Obligations.BlockNeverSticks := by
  unfold Obligations.BlockNeverSticks
  refine ⟨fun i s hinv => hinv.exec i, fun s w ws hinv hinput hlegal => ?_⟩
  obtain ⟨i, hdecode⟩ := decode_of_legal hlegal
  have htaken : (s.setInput ws).Inv := State.takeInput_eq_setInput hinput ▸ hinv.takeInput
  obtain ⟨t, hexec, -⟩ := htaken.exec i
  exact ⟨t, (step_of_input_cons hinput hdecode).trans hexec, exec_input hexec⟩

/-! ## Which transaction outputs more than NONE -/

theorem State.verdict_status_ne_eof (s : State) : s.verdict.status ≠ .eof := by
  unfold State.verdict
  split_ifs <;> simp [Output.error, Output.accepted]

/-- What a step with an output other than NONE has done. It is EOI, or it is the BYTE that ends a frame: its byte is stored,
the block is back in HUNT, and `len` is written only by the length read of the tenth byte (41_framer.md R73, R74;
43_control.md R98). -/
theorem exec_end_cases {i : Instr} {s t : State} (h : exec i s = .next t) :
    t.lastOutput = Output.quiet ∨
    (i = .eoi ∧ t.lastOutput = Output.endOfFile) ∨
    ∃ b n o, i = .byte b ∧ t = (((s.storeNext b).setLen n).setNbyte 0).emit o ∧ (s.nbyte ≠ 9 → n = s.len) ∧
      o.status ≠ .eof := by
  cases i with
  | nop => exact .inl (Host.Outcome.next.inj h ▸ rfl)
  | eoi => exact .inr (.inl ⟨rfl, Host.Outcome.next.inj h ▸ rfl⟩)
  | reset => exact .inl (Host.Outcome.next.inj h ▸ rfl)
  | byte b =>
    rw [exec_byte] at h
    rcases execByte_cases b s with ⟨-, hexec⟩ | ⟨-, -, hexec⟩ | ⟨-, -, hexec⟩
    · exact .inl (Host.Outcome.next.inj (hexec.symm.trans h) ▸ s.lastOutput_hunt b)
    · obtain rfl : (s.storeNext b).afterStore = t := Host.Outcome.next.inj (hexec.symm.trans h)
      rcases s.accumulate_cases b with ⟨-, -, heq⟩ | ⟨-, -, heq⟩ | ⟨-, -, heq⟩
      · exact .inl (heq ▸ State.lastOutput_emit _ _)
      · exact .inr (.inr ⟨b, _, _, rfl, heq, State.lenAfter_of_ne_nine b, by simp [Output.error]⟩)
      · exact .inr (.inr ⟨b, s.len, _, rfl, heq, fun _ => rfl, State.verdict_status_ne_eof _⟩)
    · cases hexec.symm.trans h

/-- A bundle comes with ACCEPT only, so an error has none (30_encoding.md R58). -/
theorem bundle_of_exec_err {i : Instr} {s t : State} (h : exec i s = .next t) (herr : t.lastOutput.status = .err) :
    t.lastOutput.bundle = none := by
  obtain ⟨u, o, rfl, hout⟩ := exec_emits h
  obtain ⟨-, hbundle⟩ := hout.legal
  rw [State.lastOutput_emit] at herr ⊢
  simpa [herr] using hbundle

/-! ## The obligations about outputs -/

/-- Settles O8: apart from EOI, a step outputs NONE or ends a frame, which gives an error or the verdict. -/
theorem eofComesFromEoiAlone : Obligations.EofComesFromEoiAlone := by
  unfold Obligations.EofComesFromEoiAlone
  refine ⟨fun s => ⟨_, exec_eoi s, rfl⟩, fun i s t hexec heof => ?_⟩
  rcases exec_end_cases hexec with hout | ⟨heoi, -⟩ | ⟨b, n, o, -, rfl, -, hne⟩
  · simp [hout, Output.quiet] at heof
  · exact heoi
  · exact absurd heof hne

/-- Settles O29: a step that outputs ERR is a BYTE that ends its frame, and that writes no more than its byte, `nbyte` and,
on the tenth byte, `len`. -/
theorem frameErrorOnlyDropsFrame : Obligations.FrameErrorOnlyDropsFrame := by
  unfold Obligations.FrameErrorOnlyDropsFrame
  intro i s t hexec herr
  have hbundle := bundle_of_exec_err hexec herr
  rcases exec_end_cases hexec with hout | ⟨-, hout⟩ | ⟨b, n, o, rfl, rfl, hlen, -⟩
  · simp [hout, Output.quiet] at herr
  · simp [hout, Output.endOfFile] at herr
  · exact ⟨b, rfl, rfl, rfl, hlen, by simp, fun a ha => by simp [ha], hbundle⟩

end Sys2Proof.Machine
end

section
/-! # Recovery after garbage, and how long an accepted frame stays in the buffer (70_reset_and_hazards.md R125, R127) -/

namespace Sys2Proof.Machine

/-! ## A frame after garbage (R127) -/

theorem feedBytes_append {bs cs : List Byte} {s t u : State} {os ps : List Output} (h : feedBytes bs s = .next (os, t))
    (hrest : feedBytes cs t = .next (ps, u)) : feedBytes (bs ++ cs) s = .next (os ++ ps, u) := by
  rw [feedBytes, List.map_append, feed_append h, ← feedBytes, hrest]

theorem Wire.verdict_of_valid {f : List Byte} (h : Wire.trailerOk f) (hweek : Wire.week f ≠ 0) :
    Wire.verdict f = Output.accepted (Wire.bundle f) :=
  (if_neg (not_not.2 h)).trans (if_neg hweek)

/-- Hunt bytes without the pattern leave the buffer, so the block is in an invariant HUNT state when the frame begins. -/
theorem State.Inv.feedBytes_garbage {s : State} (h : s.Inv) (h0 : s.nbyte = 0) {g : List Byte}
    (hg : ¬ s.win.FindsSync g) :
    ∃ t, feedBytes g s = .next (List.replicate g.length Output.quiet, t) ∧ t.Inv ∧ t.nbyte = 0 ∧ t.buf = s.buf := by
  obtain ⟨t, hfeed, hnbyte, hbuf, -⟩ := feedBytes_of_no_sync h0 hg
  have hinv : t.Inv := State.inv_of_hunt (hbuf ▸ h.capacity) (hbuf ▸ h.cells) hnbyte
  exact ⟨t, hfeed, hinv, hnbyte, hbuf⟩

/-- Settles O44: the garbage ends in HUNT, whatever it leaves in the window, and the frame then gets its verdict. -/
theorem validFrameIsAccepted : Obligations.ValidFrameIsAccepted := by
  unfold Obligations.ValidFrameIsAccepted
  intro s g f hinv h0 hg hf hfits hok hweek
  have hcapacity := hinv.capacity
  have hlength := Wire.length_of_isFrame hf
  have hsize := Wire.frameSize_eq f
  obtain ⟨t, hgarbage, htinv, ht0, hbuf⟩ := hinv.feedBytes_garbage h0 hg
  have hroom : f.length ≤ t.buf.size := by rw [hbuf]; omega
  obtain ⟨u, hframe, -, hu0, -⟩ := feedBytes_frame htinv ht0 hf hroom
  have hcount : g.length + f.length - 1 = g.length + (f.length - 1) := by omega
  refine ⟨u, ?_, hu0⟩
  rw [feedBytes_append hgarbage hframe, Wire.verdict_of_valid hok hweek, hcount, List.replicate_add, List.append_assoc]
  rfl

/-! ## The buffer after an accepted frame (R125) -/

/-- No fewer than `k` bytes complete the pattern with what the window holds. -/
def Window.FarFromSync (w : Window) (k : Nat) : Prop := ∀ bs : List Byte, bs.length < k → ¬ w.FindsSync bs

/-- A window that ends in no first part of the pattern leaves all three bytes of it to come. -/
theorem Window.farFromSync_of_le_three {w : Window} {k : Nat} (h₀ : w.w2 ≠ sync0) (h₁ : w.w2 ≠ sync1) (hk : k ≤ 3) :
    w.FarFromSync k := by
  intro bs hbs
  match bs with
  | [] => exact w.not_findsSync_nil
  | [b] => simp [h₁]
  | [b, c] => simp [h₀, h₁]
  | _ :: _ :: _ :: _ => simp only [List.length_cons] at hbs; omega

theorem Window.FarFromSync.shift {w : Window} {k : Nat} (h : w.FarFromSync (k + 1)) (b : Byte) :
    (w.shift b).FarFromSync k := fun bs hbs hfinds =>
  h (b :: bs) (Nat.succ_lt_succ hbs) (Window.findsSync_cons.2 (.inr hfinds))

/-- A byte that completes the pattern is the last of the bytes that the distance counts. -/
theorem Window.FarFromSync.eq_zero_of_shift {w : Window} {k : Nat} {b : Byte} (h : w.FarFromSync (k + 1))
    (hsync : w.shift b = Window.sync) : k = 0 := by
  by_contra hk
  exact h [b] (Nat.succ_lt_succ (Nat.pos_of_ne_zero hk)) (Window.findsSync_cons.2 (.inl (Window.shift_eq_sync.1 hsync)))

/-- The next `k` BYTEs change no byte of the buffer: they are hunt bytes, at most the last of them completes the pattern,
and the three bytes it then stores are there already. -/
structure State.KeepsBuffer (s : State) (k : Nat) : Prop where
  syncHeld : s.readByte 0 = sync0 ∧ s.readByte 1 = sync1 ∧ s.readByte 2 = sync2
  atMost   : k ≤ 3
  hunting  : 0 < k → s.nbyte = 0 ∧ s.win.FarFromSync k

/-- In HUNT with the window of a frame's end or of EOI. -/
theorem State.keepsBuffer_of_hunt {s : State} {k : Nat}
    (hheld : s.readByte 0 = sync0 ∧ s.readByte 1 = sync1 ∧ s.readByte 2 = sync2) (h0 : s.nbyte = 0)
    (hwin : s.win = Window.sync ∨ s.win = Window.cleared) (hk : k ≤ 3) : s.KeepsBuffer k := by
  refine ⟨hheld, hk, fun _ => ⟨h0, ?_⟩⟩
  rcases hwin with hwin | hwin
  · exact hwin ▸ Window.farFromSync_of_le_three (by decide) (by decide) hk
  · exact hwin ▸ Window.farFromSync_of_le_three (by decide) (by decide) hk

/-- Opening a frame where `buf[0..2]` holds the pattern rewrites it with the same values. -/
theorem State.readByte_hunt_of_syncHeld {s : State} (b : Byte) (h0 : s.nbyte = 0)
    (hheld : s.readByte 0 = sync0 ∧ s.readByte 1 = sync1 ∧ s.readByte 2 = sync2) (i : Nat) :
    (s.hunt b).readByte i = s.readByte i := by
  obtain ⟨hr₀, hr₁, hr₂⟩ := hheld
  by_cases hsync : s.win.shift b = Window.sync
  · rw [State.readByte_hunt_of_sync hsync]
    split_ifs with h₂ h₁ h₀
    · rw [h₂, hr₂]
    · rw [h₁, hr₁]
    · rw [h₀, hr₀]
    · rfl
  · exact State.readByte_hunt h0 (by simp [State.storedIndices, State.completesSync, h0, hsync])

theorem State.KeepsBuffer.hunt {s : State} {k : Nat} (h : s.KeepsBuffer (k + 1)) (b : Byte) :
    (s.hunt b).KeepsBuffer k := by
  obtain ⟨h0, hfar⟩ := h.hunting k.succ_pos
  have hread := State.readByte_hunt_of_syncHeld b h0 h.syncHeld
  refine ⟨by simpa only [hread] using h.syncHeld, Nat.le_of_succ_le h.atMost, fun hk => ⟨?_, ?_⟩⟩
  · have hsync : s.win.shift b ≠ Window.sync := fun hsync => hk.ne' (hfar.eq_zero_of_shift hsync)
    exact (State.hunt_nbyte_of_no_sync hsync).trans h0
  · exact (s.hunt_win b).symm ▸ hfar.shift b

/-- The transactions that R125 counts: BYTE, and RESET, which it excludes. -/
def isByteOrReset (i : Instr) : Bool := decide (i ≠ .nop ∧ i ≠ .eoi)

/-- A transaction other than RESET: one BYTE fewer is left after a BYTE, as many after NOP and EOI. -/
theorem State.KeepsBuffer.exec {s t : State} {i : Instr} {k : Nat}
    (h : s.KeepsBuffer (k + if isByteOrReset i then 1 else 0)) (hi : i ≠ .reset) (hexec : exec i s = .next t) :
    t.KeepsBuffer k ∧ ∀ a, t.readByte a = s.readByte a := by
  cases i with
  | nop =>
    obtain rfl := Host.Outcome.next.inj hexec
    exact ⟨⟨h.syncHeld, h.atMost, h.hunting⟩, fun _ => rfl⟩
  | eoi =>
    obtain rfl := Host.Outcome.next.inj hexec
    exact ⟨State.keepsBuffer_of_hunt h.syncHeld rfl (.inr rfl) h.atMost, fun _ => rfl⟩
  | reset => exact absurd rfl hi
  | byte b =>
    have hcounted : s.KeepsBuffer (k + 1) := h
    obtain ⟨h0, -⟩ := hcounted.hunting k.succ_pos
    obtain rfl := Host.Outcome.next.inj ((exec_byte_of_hunt b h0).symm.trans hexec)
    exact ⟨hcounted.hunt b, State.readByte_hunt_of_syncHeld b h0 hcounted.syncHeld⟩

theorem State.KeepsBuffer.feed {is : List Instr} {s u : State} {os : List Output}
    (h : s.KeepsBuffer (is.countP isByteOrReset)) (hreset : .reset ∉ is) (hfeed : feed is s = .next (os, u)) (a : Nat) :
    u.readByte a = s.readByte a := by
  induction is generalizing s os with
  | nil =>
    obtain ⟨-, rfl⟩ := Prod.mk.inj (Host.Outcome.next.inj hfeed)
    rfl
  | cons i is ih =>
    obtain ⟨t, ps, hexec, hrest, -⟩ := feed_cons_inv hfeed
    obtain ⟨hi, his⟩ := not_or.1 (mt List.mem_cons.2 hreset)
    rw [List.countP_cons] at h
    obtain ⟨hkeeps, hread⟩ := h.exec (Ne.symm hi) hexec
    exact (ih hkeeps his hrest).trans (hread a)

/-- An accepting step returns to HUNT with the window and `buf[0..2]` at the pattern that opened the frame. -/
theorem State.keepsBuffer_of_bundle {i : Instr} {s t : State} {f : Bundle} {k : Nat} (hinv : s.Inv)
    (hexec : exec i s = .next t) (hbundle : t.lastOutput.bundle = some f) (hk : k ≤ 3) : t.KeepsBuffer k := by
  obtain ⟨b, rfl, h10, hlast⟩ := noPartialMessage i s t hinv hexec (Option.isSome_of_eq_some hbundle)
  obtain ⟨v, hv, h0, -, hwin, -, -, -, -, hkept, -⟩ := completingByteGivesVerdict s b h10 hlast hinv.nbyte_lt_size
  obtain rfl := Host.Outcome.next.inj (hv.symm.trans hexec)
  have hsync : v.win = Window.sync := hwin.trans (hinv.windowHeld (by omega))
  have hheld : v.readByte 0 = sync0 ∧ v.readByte 1 = sync1 ∧ v.readByte 2 = sync2 := by
    rw [hkept 0 (by omega), hkept 1 (by omega), hkept 2 (by omega)]
    exact hinv.syncHeld (by omega)
  exact State.keepsBuffer_of_hunt hheld h0 (.inl hsync) hk

/-- Settles O49: the bundle holds the bytes of the buffer after the accepting step, and the transactions that follow change
none of them. -/
theorem acceptedFrameOutlivesThreeBytes : Obligations.AcceptedFrameOutlivesThreeBytes := by
  unfold Obligations.AcceptedFrameOutlivesThreeBytes
  intro i s t u f is os hinv hexec hbundle hreset hcount hfeed
  obtain ⟨-, -, -, -, -, -, -, -, -, hbytes⟩ := acceptedBundleHoldsFields i s t f hexec hbundle
  have hread := (State.keepsBuffer_of_bundle hinv hexec hbundle hcount).feed hreset hfeed
  calc u.bytes f.bytes.length
    _ = u.bytes (t.len + 4) := by rw [hbytes, State.bytes_length]
    _ = t.bytes (t.len + 4) := State.bytes_congr fun a _ => hread a
    _ = f.bytes := hbytes.symm

end Sys2Proof.Machine
end

section
/-! # Where BYTE stops (20_memory.md R32, log entry 9) -/

namespace Sys2Proof.Machine

/-- Settles O33: of the three things BYTE can do, `nbyte ≠ 0` shuts out the sync search and `nbyte` beyond the buffer
shuts out the framer's step. -/
theorem byteBeyondBufferFaults : Obligations.ByteBeyondBufferFaults := by
  unfold Obligations.ByteBeyondBufferFaults
  intro s b hne hfull
  rw [exec_byte]
  rcases execByte_cases b s with ⟨h0, -⟩ | ⟨-, hroom, -⟩ | ⟨-, -, hfault⟩
  · exact absurd h0 hne
  · exact absurd hroom hfull.not_gt
  · exact hfault

end Sys2Proof.Machine
end
